-- ==== Sys2Proof/Word.lean ====
section
/-! DEFINITION. The index types of the part (00_scope.md, Units and ranges) and the byte. -/

namespace Sys2Proof

/-- One byte of a control-port transfer or of a switch-link frame (R191, R192). -/
abbrev Byte := BitVec 8

/-- A context slot, 0 to 63. -/
abbrev Slot := Fin 64

/-- A degree, and the switch link of that degree, 0 to 7. -/
abbrev Degree := Fin 8

/-- A tap number, 0 to 31 (R50). -/
abbrev Tap := Fin 32

/-- A keyer, 0 to 15. -/
abbrev KeyerNo := Fin 16

/-- A tone index, 0 to 255 (R30). -/
abbrev Tone := Fin 256

/-- A channel slot, 0 to 127. -/
abbrev Channel := Fin 128

end Sys2Proof
end

