-- ==== Sys2Proof/Syntax.lean ====
section
/-! DEFINITION. The commands of the part: one constructor for each row of spec/opcode_table.json. -/

namespace Sys2Proof

/-- What one visit gathers about one tone, at the frequency of its index (R30, R51, R34): its raw power in whole microwatts, before the
limits of R52, and the 32 symbol decisions of the visit, `true` for + and `false` for −. -/
structure ToneReading where
  tone : Tone
  power : Nat
  decisions : List Bool
  deriving DecidableEq, Repr

/-- What one visit gathers (R51): the raw total power in whole microwatts, before the limits of R52,
and the tones heard. A tone that is not listed was estimated below 1 µW (log entry 19). -/
structure VisitReading where
  total : Nat
  tones : List ToneReading
  deriving DecidableEq, Repr

/-- When, within the end of a visit, the arbiters of the links take their decisions. R144 and R157 let
the decision fall between two takings of the report, after all of them, or after the excursion test,
and give the outcome of each order; the sender of VISIT_END says which (log entry 5). -/
inductive ArbiterMoment where
  | atPosting
  | afterTakings
  | afterTest
  deriving DecidableEq, Repr

/-- One constructor for each row of the table. A processor command carries the payload bytes of its
frame (R192); its payload length is the list's length. -/
inductive Instr where
  /-- CONFIGURE (R183). -/
  | configure (payload : List Byte)
  /-- OPEN (R13). -/
  | openContext (payload : List Byte)
  /-- ADOPT (R21). -/
  | adopt (payload : List Byte)
  /-- CANCEL (R23). -/
  | cancel (payload : List Byte)
  /-- FREE (R24). -/
  | free (payload : List Byte)
  /-- READ_CONTEXT (R25). -/
  | readContext (payload : List Byte)
  /-- READ_CENSUS (R69). -/
  | readCensus (payload : List Byte)
  /-- READ_DEGREE (R189). -/
  | readDegree (payload : List Byte)
  /-- TAKE_EVENTS (R187). -/
  | takeEvents (payload : List Byte)
  /-- SET_ATTN_MASK (R188). -/
  | setAttnMask (payload : List Byte)
  /-- FORCE_GUARD (R155). -/
  | forceGuard (payload : List Byte)
  /-- LINK_RETRY (R175). -/
  | linkRetry (payload : List Byte)
  /-- RESTART (R184). -/
  | restart (payload : List Byte)
  /-- UNKNOWN_COMMAND: a complete frame whose code is not one of the thirteen commands (R182). -/
  | unknownCommand (code : Byte) (payload : List Byte)
  /-- WRITE_INCOMPLETE: the bytes of a transfer that has no effect (R181). -/
  | writeIncomplete (transfer : List Byte)
  /-- RESPONSE_READ: a READ transfer that clocks out `count` bytes (R181). -/
  | responseRead (count : Nat)
  /-- RESPONSE_READY: the pending response has been built (R181). -/
  | responseReady
  /-- RESET_PIN: the pin is asserted and released (R185). -/
  | resetPin
  /-- RESTART_COMPLETE: every link is quiet (R184). -/
  | restartComplete
  /-- MS_TICK (R180). -/
  | msTick
  /-- SECOND_TICK (R26). -/
  | secondTick
  /-- FRAME_TICK (R131). -/
  | frameTick
  /-- RESPONSE_TIMEOUT of a link (R173). -/
  | responseTimeout (link : Degree)
  /-- DEADLINE_EXPIRY of a record (R27). -/
  | deadlineExpiry (slot : Slot)
  /-- LINGER_EXPIRY of a keyer (R44). -/
  | lingerExpiry (keyer : KeyerNo)
  /-- WINDOW_BOUNDARY of a degree (R131). -/
  | windowBoundary (degree : Degree)
  /-- VISIT_END: the end of the visit in progress, with what it gathered (R51). -/
  | visitEnd (reading : VisitReading) (moment : ArbiterMoment)
  /-- SCAN_START: the first visit begins (R70). -/
  | scanStart
  /-- WORD_BOUNDARY of a keyer (R41). -/
  | wordBoundary (keyer : KeyerNo)
  /-- LINK_ACCEPT: a module's ACCEPT (R169). -/
  | linkAccept (link : Degree) (number : Byte)
  /-- LINK_DONE: a module's DONE with the value byte of R191 (R170). -/
  | linkDone (link : Degree) (number : Byte) (value : Byte)
  /-- LINK_REFUSE: a module's REFUSE with its reason byte (R171). -/
  | linkRefuse (link : Degree) (number : Byte) (reason : Byte)
  /-- REPLY_DISCARDED: a reply frame that is not matched or fails its frame check (R169). -/
  | replyDiscarded (link : Degree) (frame : List Byte)
  /-- SYMBOL_ADVANCE of a keyer (R37). -/
  | symbolAdvance (keyer : KeyerNo)
  deriving DecidableEq, Repr

end Sys2Proof
end

