-- ==== Sys2Proof/Decode.lean ====
section
/-! DEFINITION. From the outside's bytes to commands: whole SPI transfers (R181, R192) and whole reply
frames of a switch module (R169, R191). No row of the table gives bits, so `decodeTableWord` reads
no command from a word. -/

namespace Sys2Proof

/-- A 16-bit field, most significant byte first (R192). -/
def word16 (hi lo : Byte) : Nat := hi.toNat * 256 + lo.toNat

/-- The command of a complete frame, by its code (R192); any other code is UNKNOWN_COMMAND (R182). -/
def commandOf (code : Byte) (payload : List Byte) : Instr :=
  if code = 0x10#8 then .configure payload
  else if code = 0x20#8 then .openContext payload
  else if code = 0x21#8 then .adopt payload
  else if code = 0x22#8 then .cancel payload
  else if code = 0x23#8 then .free payload
  else if code = 0x28#8 then .readContext payload
  else if code = 0x30#8 then .readCensus payload
  else if code = 0x31#8 then .readDegree payload
  else if code = 0x40#8 then .takeEvents payload
  else if code = 0x41#8 then .setAttnMask payload
  else if code = 0x50#8 then .forceGuard payload
  else if code = 0x51#8 then .linkRetry payload
  else if code = 0x60#8 then .restart payload
  else .unknownCommand code payload

/-- The command code of a processor command (R192). -/
def codeOf : Instr → Option (Byte × List Byte)
  | .configure p => some (0x10#8, p)
  | .openContext p => some (0x20#8, p)
  | .adopt p => some (0x21#8, p)
  | .cancel p => some (0x22#8, p)
  | .free p => some (0x23#8, p)
  | .readContext p => some (0x28#8, p)
  | .readCensus p => some (0x30#8, p)
  | .readDegree p => some (0x31#8, p)
  | .takeEvents p => some (0x40#8, p)
  | .setAttnMask p => some (0x41#8, p)
  | .forceGuard p => some (0x50#8, p)
  | .linkRetry p => some (0x51#8, p)
  | .restart p => some (0x60#8, p)
  | .unknownCommand code p => some (code, p)
  | .writeIncomplete _ => none
  | .responseRead _ => none
  | .responseReady => none
  | .resetPin => none
  | .restartComplete => none
  | .msTick => none
  | .secondTick => none
  | .frameTick => none
  | .responseTimeout _ => none
  | .deadlineExpiry _ => none
  | .lingerExpiry _ => none
  | .windowBoundary _ => none
  | .visitEnd _ _ => none
  | .scanStart => none
  | .wordBoundary _ => none
  | .linkAccept _ _ => none
  | .linkDone _ _ _ => none
  | .linkRefuse _ _ _ => none
  | .replyDiscarded _ _ => none
  | .symbolAdvance _ => none

/-- The command a whole SPI transfer makes (R181, R192). The first byte selects WRITE (0x01) or READ
(0x02). A WRITE is complete when it carries at least as many payload bytes as its length states, and
bytes beyond the length are ignored; a READ clocks out one byte for each byte after the first. Every
other transfer has no effect. -/
def decodeTransfer (bytes : List Byte) : Instr :=
  match bytes with
  | [] => .writeIncomplete bytes
  | direction :: rest =>
    if direction = 0x02#8 then .responseRead rest.length
    else if direction = 0x01#8 then
      match rest with
      | code :: hi :: lo :: payload =>
        if word16 hi lo ≤ payload.length then commandOf code (payload.take (word16 hi lo))
        else .writeIncomplete bytes
      | _ => .writeIncomplete bytes
    else .writeIncomplete bytes

/-- The shortest SPI transfer that makes a command, for the commands an SPI transfer can make. -/
def encodeTransfer (i : Instr) : Option (List Byte) :=
  match codeOf i with
  | some (code, payload) =>
    some (0x01#8 :: code :: BitVec.ofNat 8 (payload.length / 256) ::
      BitVec.ofNat 8 payload.length :: payload)
  | none =>
    match i with
    | .writeIncomplete transfer => some transfer
    | .responseRead count => some (0x02#8 :: List.replicate count 0#8)
    | _ => none

/-- The command a whole reply frame makes on a link (R191). A frame whose start, length or frame check
is wrong, or whose kind or value is outside the values of R191, is discarded (R169). The value of a
DONE depends on the command the link holds, and the link judges it (`execLinkDone`). -/
def decodeReply (link : Degree) (frame : List Byte) : Instr :=
  match frame with
  | [start, number, kind, value, check] =>
    if start = 0x5A#8 ∧ check = number ^^^ kind ^^^ value then
      if kind = 1#8 ∧ value = 0#8 then .linkAccept link number
      else if kind = 2#8 then .linkDone link number value
      else if kind = 3#8 ∧ value.toNat ≤ 15 then .linkRefuse link number value
      else .replyDiscarded link frame
    else .replyDiscarded link frame
  | _ => .replyDiscarded link frame

/-- No row of spec/opcode_table.json gives bits, so no word spells a command. -/
def decodeTableWord (_nbits _w : Nat) : Option Instr := none

end Sys2Proof
end

