-- ==== Sys2Proof/Config.lean ====
section
/-! DEFINITION. What the manual leaves open as a value: one constant with no body. -/

namespace Sys2Proof

/-- How a last D that does not fit a signed 32-bit field is sent. R193 gives the field 32 bits and
states no value for a D outside them. DESIGN CHOICE, log entry 10: a free value. -/
opaque Config.wideLastD : Int → BitVec 32

end Sys2Proof
end

