-- ==== Sys2Proof/Machine/State.lean ====
section
/-! DEFINITION. The state of the part as plain data, block by block (00_scope.md, Block overview), and
the state after the RESET pin. -/

namespace Sys2Proof.Machine

/-! ## Names -/

/-- R179. -/
inductive PartState where
  | unconfigured | run | restarting
  deriving DecidableEq, Repr

/-- The roles (00_scope.md, Roles and the switch port each uses). -/
inductive Role where
  | origin | answer | transit | tail
  deriving DecidableEq, Repr

/-- R2. -/
inductive Priority where
  | high | low
  deriving DecidableEq, Repr

/-- The states of R1 but for IDLE, which is the absence of a record. -/
inductive CtxState where
  | armed | adopting | opening | following | ramping | settled | commissioned | lost | withdrawing
  | ended
  deriving DecidableEq, Repr

/-- R5: what the part accounts a port's attenuation to be, in tenths of a decibel. -/
inductive Atten where
  | blocked | unknown | tenths (n : Nat)
  deriving DecidableEq, Repr

/-- R2, R81. -/
inductive AnswerHold where
  | held | released
  deriving DecidableEq, Repr

/-- R6. -/
inductive StepKind where
  | openPort | step | groupStep | withdrawStep | block | read
  deriving DecidableEq, Repr

/-- R6: DOWN brightens, UP dims. -/
inductive Direction where
  | up | down
  deriving DecidableEq, Repr

/-- The withdraw causes and outcomes of R2. -/
inductive Ending where
  | cancelled | upstreamWithdrawn | deadline | partnerEnded | switchRefused | adoptFailed | conflict
  deriving DecidableEq, Repr

/-- R32. -/
inductive ToneState where
  | probe | ramp | settled | commissioned | withdraw
  deriving DecidableEq, Repr

/-- R37. -/
inductive KeyerOutput where
  | silent | keying | linger
  deriving DecidableEq, Repr

/-- R130: the event that started a window. -/
inductive StartCause where
  | configure | restart | boundary | guardExit
  deriving DecidableEq, Repr

/-- R151. -/
inductive LastTest where
  | none | skipped | clean | excursion | saturated
  deriving DecidableEq, Repr

/-- R162. -/
inductive LinkState where
  | absent | idle | busy | retrying | faulted
  deriving DecidableEq, Repr

/-- R162, R163: the side of a switch module. -/
inductive Side where
  | lineOut | drop
  deriving DecidableEq, Repr

/-- R163. -/
inductive Level where
  | urgent | high | low
  deriving DecidableEq, Repr

/-- R163: the kinds of a single context's request. -/
inductive ReqKind where
  | openPort | step | withdrawStep | block | read
  deriving DecidableEq, Repr

/-- R168: the kinds of a link command. -/
inductive CommandKind where
  | set | block | read
  deriving DecidableEq, Repr

/-- The statuses of R182. -/
inductive Status where
  | ok | badField | notConfigured | alreadyConfigured | busy | portTaken | toneTaken | noKeyer
  | partnerInvalid | wrongState | restarting | unknownCommand
  deriving DecidableEq, Repr

/-! ## Context Table -/

/-- R6. -/
structure StepInFlight where
  kind : StepKind
  direction : Option Direction
  size : Option Nat
  commanded : Option Nat
  charge : Nat
  deriving DecidableEq, Repr

/-- The twelve condition flags of R7 and R8. -/
structure CondFlags where
  mismatch : Bool
  collision : Bool
  upstreamUnstable : Bool
  budgetWait : Bool
  guardHold : Bool
  linkHold : Bool
  short : Bool
  excess : Bool
  unleveled : Bool
  adopted : Bool
  keyerReleased : Bool
  lateReply : Bool
  deriving DecidableEq, Repr

/-- A record that is not IDLE (R2, R79, R104, R144). The last four fields are state the manual implies
(log entry 14). -/
structure Context where
  state : CtxState
  role : Role
  tone : Tone
  channel : Channel
  /-- Present for TRANSIT and TAIL. -/
  ingress : Option Degree
  /-- Present for ORIGIN, ANSWER and TRANSIT. -/
  egress : Option Degree
  priority : Priority
  group : Option Nat
  targetOverride : Option Nat
  sNom : Nat
  tTol : Nat
  deadline : Nat
  partner : Option Slot
  answerHold : Option AnswerHold
  elapsed : Nat
  frozen : Bool
  atten : Atten
  keyer : Option KeyerNo
  lastPower : Option Nat
  step : Option StepInFlight
  flags : CondFlags
  switchReason : Option Nat
  cause : Option Ending
  outcome : Option Ending
  portClosed : Option Bool
  /-- R79: present in SETTLED. -/
  drift : Option Nat
  /-- R104: the commission heard mark. -/
  heard : Bool
  /-- R144: the group entry mark. -/
  groupEntry : Bool
  /-- R76: a fresh measurement has been received since the last DONE applied. -/
  freshHeld : Bool
  /-- R67: the number of visits begun when the last DONE was applied. -/
  doneAt : Option Nat
  /-- R88, R110: the latest watch report found the tone in loss. -/
  inLoss : Bool
  /-- R9, R90, R111: in WITHDRAWING, the next request is an URGENT BLOCK whatever the attenuation. -/
  mustBlock : Bool
  deriving DecidableEq, Repr

/-! ## Keyer Bank -/

/-- A tone word held as its contents (R37); its index check and check are derived (R31, R33). -/
structure ToneWord where
  tone : Tone
  channel : Channel
  state : ToneState
  deriving DecidableEq, Repr

/-- R37. -/
structure Keyer where
  bound : Option Slot
  output : KeyerOutput
  active : Option ToneWord
  staged : Option ToneWord
  position : Option Nat
  lingerCount : Nat
  deriving DecidableEq, Repr

/-! ## Tone Analysis Engine -/

/-- A total-power reading with its SATURATED mark (R52, R58). -/
structure Reading where
  value : Nat
  saturated : Bool
  deriving DecidableEq, Repr

/-- R60. -/
structure CensusEntry where
  tone : Tone
  latest : Nat
  prior : Nat
  /-- The decoded slot and the decoded state, absent together. -/
  decoded : Option (Channel × ToneState)
  lastDecoded : Bool
  presence : Nat
  absence : Nat
  undecoded : Nat
  stable : Nat
  deriving DecidableEq, Repr

/-- What the TAE keeps of one tap (R58, R60). -/
structure TapRecord where
  latest : Option Reading
  prior : Option Reading
  census : List CensusEntry
  deriving DecidableEq, Repr

/-- R53 to R57, R70. `visits` and `ended` are implied state (log entries 3, 14). -/
structure Tae where
  taps : Vector TapRecord 32
  queue : List Tap
  priorityRun : Nat
  scanPointer : Option Tap
  visit : Option Tap
  visits : Nat
  /-- A frame tick has fallen that ends the visit in progress or starts the scan. -/
  ended : Bool
  deriving DecidableEq, Repr

/-! ## Budget Unit -/

/-- R130: present in a LOADED window. -/
structure Allowance where
  budget : Nat
  remaining : Nat
  deriving DecidableEq, Repr

/-- A window, LOADED when it has an allowance and UNLOADED otherwise (R130, R132). -/
structure Window where
  framesLeft : Nat
  cause : StartCause
  startPower : Nat
  allowance : Option Allowance
  deriving DecidableEq, Repr

/-- The budget of a degree; no window is window kind NONE (R130). -/
structure Budget where
  window : Option Window
  /-- The frame tick of a boundary has fallen and its window has not started (log entry 3). -/
  boundaryDue : Bool
  deriving DecidableEq, Repr

/-! ## Excursion Monitor -/

/-- R151. The guard state is GUARDED exactly while AUTO or FORCED is set. -/
structure Guard where
  auto : Bool
  forced : Bool
  clean : Nat
  expected : Int
  lastTest : LastTest
  lastD : Option Int
  deriving DecidableEq, Repr

/-! ## Switch Link Controllers -/

/-- An entry of a group request (R144). -/
structure GroupEntry where
  slot : Slot
  power : Nat
  atten : Nat
  size : Nat
  deriving DecidableEq, Repr

/-- Who posted a request and the figures formed at posting (R144, R163). -/
inductive ReqBody where
  | single (kind : ReqKind) (slot : Slot) (direction : Option Direction) (size : Option Nat)
      (charge : Nat)
  | group (number : Nat) (entries : List GroupEntry) (common : Nat) (total : Nat)
  deriving DecidableEq, Repr

/-- R163. -/
structure Request where
  body : ReqBody
  level : Level
  side : Side
  spanCharged : Bool
  budgetHold : Bool
  guardHold : Bool
  deriving DecidableEq, Repr

/-- An entry of a link command (R168). `slot` is the record it carries, absent once that record has been
freed or discarded (R172); the kind, direction and charge are those of the step it carries. -/
structure CommandEntry where
  slot : Option Slot
  channel : Channel
  source : Nat
  atten : Nat
  kind : StepKind
  direction : Option Direction
  charge : Nat
  deriving DecidableEq, Repr

/-- R168. -/
structure LinkCommand where
  kind : CommandKind
  side : Side
  entries : List CommandEntry
  deriving DecidableEq, Repr

/-- R162. `lastFrame` and `sendings` record the link's output (log entry 13). -/
structure Link where
  state : LinkState
  requests : List Request
  command : Option LinkCommand
  number : Byte
  timer : Option Nat
  accepted : Bool
  retry : Bool
  lastRefusal : Option Nat
  lastFrame : List Byte
  sendings : Nat
  deriving DecidableEq, Repr

/-! ## Control Port and Timebase -/

/-- The configuration of one degree (R183). -/
structure DegreeConfig where
  present : Bool
  launch : Nat
  dropTarget : Nat
  fraction : Nat
  floor : Nat
  excursionLevel : Nat
  tResp : Nat
  deriving DecidableEq, Repr

/-- The configuration (R183). -/
structure PartConfig where
  degrees : Vector DegreeConfig 8
  presence : Nat
  dwell : Nat
  lossCount : Nat
  collisionCount : Nat
  stabilityLevel : Nat
  stabilityCount : Nat
  guardExit : Nat
  window : Nat
  linger : Nat
  deriving DecidableEq, Repr

/-- The response buffer (R181). A response being built holds the status and payload the command was
answered with; the part state byte is read when the response is built (R179). -/
inductive Buffer where
  | empty
  | pending (status : Status) (payload : List Byte)
  | ready (frame : List Byte)
  deriving DecidableEq, Repr

/-- The four flags of a degree (R186). -/
structure DegreeFlags where
  guardEntered : Bool
  guardLeft : Bool
  censusFull : Bool
  saturated : Bool
  deriving DecidableEq, Repr

/-- The two flags of a link (R186). -/
structure LinkFlags where
  fault : Bool
  recovered : Bool
  deriving DecidableEq, Repr

/-- A set of event classes (R186, R188). -/
structure Classes where
  context : Bool
  degree : Bool
  link : Bool
  deriving DecidableEq, Repr

/-- The event flags (R186) and the ATTN output (R188). -/
structure Events where
  change : Vector Bool 64
  degree : Vector DegreeFlags 8
  link : Vector LinkFlags 8
  attn : Bool
  deriving DecidableEq, Repr

/-- R180. The two marks are implied state (log entry 3). -/
structure Timebase where
  ms : Nat
  frameDue : Bool
  secondDue : Bool
  deriving DecidableEq, Repr

/-- The whole part, and the queue of commands that wait. -/
structure State where
  part : PartState
  config : Option PartConfig
  timebase : Timebase
  buffer : Buffer
  /-- The bytes the last READ transfer clocked out (log entry 12). -/
  spiOut : List Byte
  /-- The ATTN enable set (R188). -/
  mask : Classes
  events : Events
  /-- The records; an absent one is IDLE (R1). -/
  contexts : Vector (Option Context) 64
  keyers : Vector Keyer 16
  tae : Tae
  budgets : Vector Budget 8
  guards : Vector Guard 8
  links : Vector Link 8
  /-- The arbiters' decisions wait within a visit end; clear between commands (log entry 5). -/
  arbiterWaits : Bool
  /-- The commands that wait, first in first out. -/
  pending : List Instr
  deriving DecidableEq, Repr

/-- Reasons for the machine to stop. The part has none: the manual names no condition in which it
stops (log entry 1), so nobody raises a fault, which is safe. -/
inductive Fault where
  deriving DecidableEq, Repr

/-- Reasons for the model to refuse a command. -/
inductive Refusal where
  /-- Raised by `exec` for a command that has no meaning yet; safe, since nothing is claimed of it. -/
  | notModelled (mnemonic : String)
  deriving DecidableEq, Repr

/-! ## After the RESET pin -/

/-- R37, R48. -/
def Keyer.free : Keyer :=
  { bound := none, output := .silent, active := none, staged := none, position := none,
    lingerCount := 0 }

/-- R70. -/
def TapRecord.empty : TapRecord := { latest := none, prior := none, census := [] }

/-- R70, R71. -/
def Tae.stopped : Tae :=
  { taps := Vector.replicate 32 TapRecord.empty, queue := [], priorityRun := 0,
    scanPointer := none, visit := none, visits := 0, ended := false }

/-- R130, R141. -/
def Budget.noWindow : Budget := { window := Option.none, boundaryDue := false }

/-- R160. -/
def Guard.clear : Guard :=
  { auto := false, forced := false, clean := 0, expected := 0, lastTest := .none, lastD := none }

/-- R177; a link that has sent nothing (log entries 11, 13). -/
def Link.reset : Link :=
  { state := .idle, requests := [], command := none, number := 0#8, timer := none,
    accepted := false, retry := false, lastRefusal := none, lastFrame := [], sendings := 0 }

/-- R185. -/
def Events.clear : Events :=
  { change := Vector.replicate 64 false,
    degree := Vector.replicate 8
      { guardEntered := false, guardLeft := false, censusFull := false, saturated := false },
    link := Vector.replicate 8 { fault := false, recovered := false },
    attn := false }

/-- R180: the count restarts from the pin's release. -/
def Timebase.zero : Timebase := { ms := 0, frameDue := false, secondDue := false }

/-- R188. -/
def Classes.empty : Classes := { context := false, degree := false, link := false }

/-- The part right after the RESET pin (R28, R48, R70, R141, R160, R177, R185), with no command sent on
any link before (log entries 11, 13) and no command waiting. -/
def State.reset : State :=
  { part := .unconfigured, config := none, timebase := Timebase.zero, buffer := .empty,
    spiOut := [], mask := Classes.empty, events := Events.clear,
    contexts := Vector.replicate 64 none, keyers := Vector.replicate 16 Keyer.free,
    tae := Tae.stopped, budgets := Vector.replicate 8 Budget.noWindow,
    guards := Vector.replicate 8 Guard.clear, links := Vector.replicate 8 Link.reset,
    arbiterWaits := false, pending := [] }

end Sys2Proof.Machine
end

