-- ==== Sys2Proof/Machine/Planner.lean ====
section
/-! DEFINITION. The Ramp Planner's arithmetic (06_leveling_arithmetic.md): the step table, the band test,
step sizes and charges, on whole numbers. -/

namespace Sys2Proof.Machine

/-- A_open (00_scope.md, Terms): the opening attenuation, 24.0 dB. -/
def openAtten : Nat := 240

/-- The highest attenuation of a port (R5). -/
def maxAtten : Nat := 250

/-- The top of the measurable range in microwatts (R52). -/
def maxPower : Nat := 316227

/-- R116: G[s] for s = 0 to 20, with G[0] = 0. -/
def stepTable : List Nat :=
  [0, 95, 193, 293, 395, 500, 607, 716, 828, 943, 1061,
    1181, 1304, 1429, 1558, 1690, 1825, 1962, 2104, 2248, 2396]

/-- R116: G[s]. -/
def stepG (s : Nat) : Nat := stepTable.getD s 0

/-- R116: q(s) = 4096 + G[s]. -/
def stepQ (s : Nat) : Nat := 4096 + stepG s

/-- R117. -/
inductive Band where
  | below | within | above
  deriving DecidableEq, Repr

/-- R117: the band test of power `p` against target `P` with tolerance `t`. -/
def bandTest (p P t : Nat) : Band :=
  if p * stepQ t < P * 4096 then .below
  else if P * stepQ t < p * 4096 then .above
  else .within

/-- R118: the limit at which a context settles out of its band. -/
inductive Limit where
  | short | excess
  deriving DecidableEq, Repr

/-- R118: what the planner returns. -/
inductive Plan where
  | settle (limit : Option Limit)
  | move (direction : Direction) (size : Nat)
  deriving DecidableEq, Repr

/-- The largest whole number from 1 to `n` that fits, if one does. -/
def largest (fits : Nat → Bool) : Nat → Option Nat
  | 0 => none
  | n + 1 => if fits (n + 1) then some (n + 1) else largest fits n

/-- R119. Size 1 always qualifies where the rule applies. -/
def downSize (p P sNom a : Nat) : Nat :=
  (largest (fun s => p * stepQ s ≤ P * 4096) (min sNom a)).getD 1

/-- R120. Size 1 always qualifies where the rule applies. -/
def upSize (p P sNom a : Nat) : Nat :=
  (largest (fun s => P * stepQ s ≤ p * 4096) (min sNom (maxAtten - a))).getD 1

/-- R118: the result for power `p`, target `P`, tolerance `t`, nominal step `sNom`, attenuation `a`. -/
def planStep (p P t sNom a : Nat) : Plan :=
  match bandTest p P t with
  | .within => .settle none
  | .below => if a = 0 then .settle (some .short) else .move .down (downSize p P sNom a)
  | .above => if maxAtten ≤ a then .settle (some .excess) else .move .up (upSize p P sNom a)

/-- The commanded attenuation of a step (R119, R120, R124). -/
def commandedAtten (dir : Direction) (a size : Nat) : Nat :=
  match dir with
  | .down => a - size
  | .up => a + size

/-- R125. -/
def brightenCharge (p s : Nat) : Nat := max 1 (p * stepG s / 4096)

/-- R126. -/
def dimCharge (p s : Nat) : Nat := max 1 (p * stepG s / (4096 + stepG s))

/-- R127. -/
def openCharge (pIn : Nat) : Nat := max 1 (pIn / 256)

/-- R125, R126: the charge of a STEP by direction. -/
def stepCharge (dir : Direction) (p s : Nat) : Nat :=
  match dir with
  | .down => brightenCharge p s
  | .up => dimCharge p s

/-- R122: the dimming charge of a withdraw step, 1 when no power has been measured. -/
def withdrawCharge (p : Option Nat) (s : Nat) : Nat :=
  match p with
  | some p => dimCharge p s
  | none => 1

/-- R122. -/
def withdrawSize (sNom a : Nat) : Nat := min sNom (openAtten - a)

/-- R80: below the widened band. -/
def belowWidened (p P t : Nat) : Bool := p * stepQ (t + 5) < P * 4096

/-- R80: above the widened band. -/
def aboveWidened (p P t : Nat) : Bool := P * stepQ (t + 5) < p * 4096

end Sys2Proof.Machine
end

