-- ==== Sys2Proof/Machine/Tone.lean ====
section
/-! DEFINITION. The tone plan (R30), the tone word (R31 to R33, R190) and the decode of a window (R34, R35).
A symbol + is `true` and − is `false`. -/

namespace Sys2Proof.Machine

/-- R30: the dither frequency of a tone index, in hertz. -/
def toneHertz (k : Tone) : Nat := 20000 + 250 * k.val

/-- R30: the tone index that the decoder looks for at a frequency in hertz, none off the tone plan. -/
def toneAtHertz (hertz : Nat) : Option Tone :=
  if h : 20000 ≤ hertz ∧ (hertz - 20000) % 250 = 0 ∧ (hertz - 20000) / 250 < 256 then
    some ⟨(hertz - 20000) / 250, h.2.2⟩
  else none

/-- R32. -/
def ToneState.code : ToneState → Nat
  | .probe => 1
  | .ramp => 2
  | .settled => 3
  | .commissioned => 4
  | .withdraw => 5

/-- R32: codes 0, 6 and 7 are invalid. -/
def ToneState.ofCode : Nat → Option ToneState
  | 1 => some .probe
  | 2 => some .ramp
  | 3 => some .settled
  | 4 => some .commissioned
  | 5 => some .withdraw
  | _ => none

/-- R33: the check of a channel slot, a tone state code and an index check. -/
def toneCheck (channel code index : Nat) : Nat :=
  let v := channel * 512 + code * 64 + index * 4
  (v / 4096) ^^^ (v / 256 % 16) ^^^ (v / 16 % 16) ^^^ (v % 16)

/-- R31: the tone index mod 16. -/
def ToneWord.indexCheck (w : ToneWord) : Nat := w.tone.val % 16

/-- R33: the check a keyer computes when it builds the word. -/
def ToneWord.check (w : ToneWord) : Nat := toneCheck w.channel.val w.state.code w.indexCheck

/-- R190: the symbols of a value, most significant bit first. -/
def symbolsOf : Nat → Nat → List Bool
  | 0, _ => []
  | n + 1, v => (v / 2 ^ n % 2 == 1) :: symbolsOf n v

/-- R190: the value of symbols, most significant bit first. -/
def valueOf (symbols : List Bool) : Nat :=
  symbols.foldl (fun v b => 2 * v + b.toNat) 0

/-- R190. -/
def syncPattern : List Bool := [true, true, true, false, false, true]

/-- R190: the 24 symbols of a word in the order sent. -/
def ToneWord.symbols (w : ToneWord) : List Bool :=
  syncPattern ++ symbolsOf 7 w.channel.val ++ symbolsOf 3 w.state.code ++
    symbolsOf 4 w.indexCheck ++ symbolsOf 4 w.check

/-- R37: the symbol a keyer sends, none while it is SILENT. -/
def Keyer.symbol (k : Keyer) : Option Bool :=
  match k.output, k.active, k.position with
  | .silent, _, _ => none
  | _, some w, some p => w.symbols[p]?
  | _, _, _ => none

/-- R35: rotation `r` of a decode block. -/
def rotation (block : List Bool) (r : Nat) : List Bool := block.drop r ++ block.take r

/-- The value of the `n` symbols of a word that begin at position `at'` (R190). -/
def wordField (word : List Bool) (at' n : Nat) : Nat := valueOf ((word.drop at').take n)

/-- R35: a rotation qualifies by its sync and its check. -/
def qualifies (word : List Bool) : Bool :=
  word.take 6 == syncPattern &&
    wordField word 20 4 == toneCheck (wordField word 6 7) (wordField word 13 3) (wordField word 16 4)

/-- R35: the outcome of a tone's decode block, the decoded slot and state or none for UNDECODED. -/
def decodeBlock (k : Tone) (block : List Bool) : Option (Channel × ToneState) :=
  if block.length = 24 then
    match ((List.range 24).map (rotation block)).filter qualifies with
    | [word] =>
      if wordField word 16 4 = k.val % 16 then
        match ToneState.ofCode (wordField word 13 3) with
        | some st => some (Fin.ofNat 128 (wordField word 6 7), st)
        | none => none
      else none
    | _ => none
  else none

/-- R34: the decode block is the decisions of periods 8 to 31. -/
def decodeWindow (k : Tone) (decisions : List Bool) : Option (Channel × ToneState) :=
  decodeBlock k ((decisions.drop 8).take 24)

end Sys2Proof.Machine
end

