-- ==== Sys2Proof/Machine/Operands.lean ====
section
/-! DEFINITION. Operands of the processor commands and fields of the responses: the 16-bit fields of a
payload (R192), clamping (R20, R183), and the widths and codes of R193. -/

namespace Sys2Proof.Machine

/-! ## Reading a payload -/

/-- The 16-bit fields of a payload (R192). -/
def fields : List Byte → List Nat
  | hi :: lo :: rest => word16 hi lo :: fields rest
  | _ => []

/-- The value that stands for an absent field (R192, R193). -/
def absent16 : Nat := 65535

/-- Field `n` of a payload. -/
def fieldAt (payload : List Byte) (n : Nat) : Nat := (fields payload).getD n absent16

/-- An optional field (R192). -/
def optionalField (v : Nat) : Option Nat := if v = absent16 then none else some v

/-- A value brought into its range (R20, R183). -/
def clamp (lo hi v : Nat) : Nat := max lo (min hi v)

/-- A configuration value: DEFAULT or clamped (R183). -/
def configured (lo hi default v : Nat) : Nat := if v = absent16 then default else clamp lo hi v

/-- A number as an index below `n`, if it is one. -/
def index? (n v : Nat) : Option (Fin n) := if h : v < n then some ⟨v, h⟩ else none

/-- R192. -/
def Role.ofCode : Nat → Option Role
  | 1 => some .origin
  | 2 => some .answer
  | 3 => some .transit
  | 4 => some .tail
  | _ => none

/-- R192. -/
def Priority.ofCode : Nat → Option Priority
  | 1 => some .high
  | 2 => some .low
  | _ => none

/-- The fields of OPEN and ADOPT as the payload carries them (R192). -/
structure OpenFields where
  slot : Nat
  role : Nat
  tone : Nat
  channel : Nat
  ingress : Nat
  egress : Nat
  priority : Nat
  group : Nat
  partner : Nat
  targetOverride : Nat
  sNom : Nat
  tTol : Nat
  deadline : Nat
  deriving DecidableEq, Repr

/-- R192: the order of the fields of OPEN and ADOPT. -/
def OpenFields.ofPayload (p : List Byte) : OpenFields :=
  { slot := fieldAt p 0, role := fieldAt p 1, tone := fieldAt p 2, channel := fieldAt p 3,
    ingress := fieldAt p 4, egress := fieldAt p 5, priority := fieldAt p 6, group := fieldAt p 7,
    partner := fieldAt p 8, targetOverride := fieldAt p 9, sNom := fieldAt p 10,
    tTol := fieldAt p 11, deadline := fieldAt p 12 }

/-! ## Writing a response -/

/-- A 16-bit field (R193). -/
def u16 (n : Nat) : List Byte := [BitVec.ofNat 8 (n / 256), BitVec.ofNat 8 n]

/-- The four bytes of a 32-bit field (R193). -/
def bits32 (v : BitVec 32) : List Byte :=
  [v.extractLsb' 24 8, v.extractLsb' 16 8, v.extractLsb' 8 8, v.extractLsb' 0 8]

/-- An unsigned 32-bit field (R193). -/
def u32 (n : Nat) : List Byte := bits32 (BitVec.ofNat 32 n)

/-- A signed 32-bit field (R193). -/
def s32 (v : Int) : List Byte := bits32 (BitVec.ofInt 32 v)

/-- A 16-bit field that may be absent (R193). -/
def opt16 (v : Option Nat) : List Byte := u16 (v.getD absent16)

/-- An unsigned 32-bit field that may be absent (R193). -/
def opt32 (v : Option Nat) : List Byte := u32 (v.getD 4294967295)

/-- Yes and set are 1, no and clear are 0 (R193). -/
def flag16 (b : Bool) : List Byte := u16 b.toNat

/-- A set sent as one field, the first member in bit 0 (R193). -/
def setField (members : List Bool) : Nat :=
  members.foldr (fun b v => b.toNat + 2 * v) 0

/-- The field of a set (R193). -/
def set16 (members : List Bool) : List Byte := u16 (setField members)

/-- The payload of a list of 16-bit fields. -/
def payload16 (values : List Nat) : List Byte := values.flatMap u16

/-! ## Codes (R191, R192, R193) -/

def Status.code : Status → Nat
  | .ok => 1
  | .badField => 2
  | .notConfigured => 3
  | .alreadyConfigured => 4
  | .busy => 5
  | .portTaken => 6
  | .toneTaken => 7
  | .noKeyer => 8
  | .partnerInvalid => 9
  | .wrongState => 10
  | .restarting => 11
  | .unknownCommand => 12

def PartState.code : PartState → Nat
  | .unconfigured => 0
  | .run => 1
  | .restarting => 2

def Role.code : Role → Nat
  | .origin => 1
  | .answer => 2
  | .transit => 3
  | .tail => 4

def Priority.code : Priority → Nat
  | .high => 1
  | .low => 2

/-- IDLE is 0. -/
def CtxState.code : CtxState → Nat
  | .armed => 1
  | .adopting => 2
  | .opening => 3
  | .following => 4
  | .ramping => 5
  | .settled => 6
  | .commissioned => 7
  | .lost => 8
  | .withdrawing => 9
  | .ended => 10

def AnswerHold.code : AnswerHold → Nat
  | .held => 1
  | .released => 2

def Ending.code : Ending → Nat
  | .cancelled => 1
  | .upstreamWithdrawn => 2
  | .deadline => 3
  | .partnerEnded => 4
  | .switchRefused => 5
  | .adoptFailed => 6
  | .conflict => 7

def StepKind.code : StepKind → Nat
  | .openPort => 1
  | .step => 2
  | .groupStep => 3
  | .withdrawStep => 4
  | .block => 5
  | .read => 6

def Direction.code : Direction → Nat
  | .up => 1
  | .down => 2

def KeyerOutput.code : KeyerOutput → Nat
  | .silent => 1
  | .keying => 2
  | .linger => 3

/-- Last outcome: DECODED 1, UNDECODED 2. -/
def outcomeCode (decoded : Bool) : Nat := if decoded then 1 else 2

def StartCause.code : StartCause → Nat
  | .configure => 1
  | .restart => 2
  | .boundary => 3
  | .guardExit => 4

def LastTest.code : LastTest → Nat
  | .none => 0
  | .skipped => 1
  | .clean => 2
  | .excursion => 3
  | .saturated => 4

def LinkState.code : LinkState → Nat
  | .absent => 0
  | .idle => 1
  | .busy => 2
  | .retrying => 3
  | .faulted => 4

def CommandKind.code : CommandKind → Nat
  | .set => 1
  | .block => 2
  | .read => 3

def Side.code : Side → Nat
  | .lineOut => 0
  | .drop => 1

def Atten.code : Atten → Nat
  | .tenths n => n
  | .unknown => 254
  | .blocked => 255

/-- The condition flags in the order of R193, bits 0 to 11. -/
def CondFlags.members (f : CondFlags) : List Bool :=
  [f.mismatch, f.collision, f.upstreamUnstable, f.budgetWait, f.guardHold, f.linkHold,
    f.short, f.excess, f.unleveled, f.adopted, f.keyerReleased, f.lateReply]

def Classes.members (c : Classes) : List Bool := [c.context, c.degree, c.link]

def DegreeFlags.members (f : DegreeFlags) : List Bool :=
  [f.guardEntered, f.guardLeft, f.censusFull, f.saturated]

def LinkFlags.members (f : LinkFlags) : List Bool := [f.fault, f.recovered]

/-! ## The link's frame -/

/-- R191: the command frame of a switch link. -/
def commandFrame (number : Byte) (c : LinkCommand) : List Byte :=
  let body : List Byte :=
    number :: BitVec.ofNat 8 (c.kind.code + 16 * c.side.code) ::
      BitVec.ofNat 8 c.entries.length ::
      c.entries.flatMap fun e =>
        [BitVec.ofNat 8 e.channel.val, BitVec.ofNat 8 e.source, BitVec.ofNat 8 e.atten]
  0xA5#8 :: body ++ [body.foldl (· ^^^ ·) 0#8]

end Sys2Proof.Machine
end

