-- ==== Sys2Proof/Machine/Ops.lean ====
section
/-! DEFINITION. Reading and writing the part's state: tables, configuration, the derived values of a
record (R3, R4), event flags and ATTN (R12, R186, R188), and the writing of a record with its change
flag. -/

namespace Sys2Proof.Machine

/-! ## Tables -/

/-- The table of `n` values given by a rule on its index. -/
def tabulate {α : Type} (n : Nat) (f : Fin n → α) : Vector α n :=
  ⟨⟨(List.finRange n).map f⟩, by simp⟩

def allSlots : List Slot := List.finRange 64

def allDegrees : List Degree := List.finRange 8

def allTaps : List Tap := List.finRange 32

def allKeyers : List KeyerNo := List.finRange 16

def allTones : List Tone := List.finRange 256

/-! ## Configuration -/

/-- The default configuration of a degree that is not present (R183). -/
def DegreeConfig.blank : DegreeConfig :=
  { present := false, launch := 500, dropTarget := 100, fraction := 31, floor := 50,
    excursionLevel := 1, tResp := 500 }

/-- What a reader sees while there is no configuration: no degree present (log entry 21). -/
def PartConfig.blank : PartConfig :=
  { degrees := Vector.replicate 8 DegreeConfig.blank, presence := 2, dwell := 2, lossCount := 2,
    collisionCount := 3, stabilityLevel := 1, stabilityCount := 3, guardExit := 4, window := 8,
    linger := 60 }

namespace State

def cfg (s : State) : PartConfig := s.config.getD PartConfig.blank

def degreeCfg (s : State) (d : Degree) : DegreeConfig := s.cfg.degrees[d]

/-- The degree is configured present. -/
def present (s : State) (d : Degree) : Bool := (s.degreeCfg d).present

/-! ## Reading -/

def ctx (s : State) (i : Slot) : Option Context := s.contexts[i]

def keyer (s : State) (k : KeyerNo) : Keyer := s.keyers[k]

def tap (s : State) (t : Tap) : TapRecord := s.tae.taps[t]

def budget (s : State) (d : Degree) : Budget := s.budgets[d]

def guard (s : State) (d : Degree) : Guard := s.guards[d]

def link (s : State) (d : Degree) : Link := s.links[d]

/-- R151: the degree is GUARDED. -/
def guarded (s : State) (d : Degree) : Bool := (s.guard d).auto || (s.guard d).forced

/-! ## Writing -/

def setKeyer (k : KeyerNo) (v : Keyer) (s : State) : State :=
  { s with keyers := s.keyers.set k v }

def setTap (t : Tap) (v : TapRecord) (s : State) : State :=
  { s with tae := { s.tae with taps := s.tae.taps.set t v } }

def setBudget (d : Degree) (v : Budget) (s : State) : State :=
  { s with budgets := s.budgets.set d v }

def setGuard (d : Degree) (v : Guard) (s : State) : State :=
  { s with guards := s.guards.set d v }

def setLink (d : Degree) (v : Link) (s : State) : State :=
  { s with links := s.links.set d v }

/-- Writes a record and nothing else. -/
def setRecord (i : Slot) (c : Option Context) (s : State) : State :=
  { s with contexts := s.contexts.set i c }

def setEvents (v : Events) (s : State) : State := { s with events := v }

/-! ## Event flags and ATTN -/

/-- R12, R186, R188: sets a slot's change flag; ATTN rises if its class is enabled. While the part is
RESTARTING no flag is set (R184). -/
def markChange (i : Slot) (s : State) : State :=
  if s.part = .restarting then s
  else s.setEvents
    { s.events with change := s.events.change.set i true, attn := s.events.attn || s.mask.context }

/-- R186, R188: sets flags of a degree. -/
def markDegree (d : Degree) (f : DegreeFlags → DegreeFlags) (s : State) : State :=
  if s.part = .restarting then s
  else s.setEvents
    { s.events with
      degree := s.events.degree.set d (f s.events.degree[d])
      attn := s.events.attn || s.mask.degree }

/-- R186, R188: sets flags of a link. -/
def markLink (d : Degree) (f : LinkFlags → LinkFlags) (s : State) : State :=
  if s.part = .restarting then s
  else s.setEvents
    { s.events with
      link := s.events.link.set d (f s.events.link[d])
      attn := s.events.attn || s.mask.link }

/-- R12: an accepted OPEN or ADOPT that discards a slot's ENDED record clears its change flag. -/
def clearChange (i : Slot) (s : State) : State :=
  s.setEvents { s.events with change := s.events.change.set i false }

/-- R186: a class is pending while it holds a pending flag. -/
def pendingClasses (s : State) : Classes :=
  { context := allSlots.any fun i => s.events.change[i]
    degree := allDegrees.any fun d => s.events.degree[d].members.any id
    link := allDegrees.any fun d => s.events.link[d].members.any id }

/-- R188: the level of ATTN evaluated in full. -/
def attnLevel (s : State) : Bool :=
  (s.mask.context && s.pendingClasses.context) || (s.mask.degree && s.pendingClasses.degree) ||
    (s.mask.link && s.pendingClasses.link)

/-- R188: ATTN evaluated in full, when a response is consumed or discarded. -/
def evaluateAttn (s : State) : State := s.setEvents { s.events with attn := s.attnLevel }

end State

/-! ## A record's derived values (R3, R4) -/

/-- R50: the tap of a degree and kind: 0 LINE_IN, 1 LINE_OUT, 2 ADD, 3 DROP. -/
def tapOf (d : Degree) (kind : Fin 4) : Tap := ⟨4 * d.val + kind.val, by omega⟩

/-- The degree of a tap (R50). -/
def tapDegree (t : Tap) : Degree := ⟨t.val / 4, by omega⟩

/-- The kind of a tap (R50). -/
def tapKind (t : Tap) : Fin 4 := ⟨t.val % 4, by omega⟩

def lineIn (d : Degree) : Tap := tapOf d 0

def lineOut (d : Degree) : Tap := tapOf d 1

def addTap (d : Degree) : Tap := tapOf d 2

def dropTap (d : Degree) : Tap := tapOf d 3

namespace Context

/-- An ORIGIN or ANSWER. -/
def head (c : Context) : Bool := c.role == .origin || c.role == .answer

/-- A TRANSIT or TAIL. -/
def follower (c : Context) : Bool := c.role == .transit || c.role == .tail

def isTail (c : Context) : Bool := c.role == .tail

/-- The egress degree, present for every role but TAIL (log entry 21). -/
def out (c : Context) : Degree := c.egress.getD 0

/-- The ingress degree, present for TRANSIT and TAIL (log entry 21). -/
def inward (c : Context) : Degree := c.ingress.getD 0

/-- The degree of the owned port, whose link carries the context's requests. -/
def link (c : Context) : Degree := if c.isTail then c.inward else c.out

def watchTap (c : Context) : Tap := if c.head then addTap c.out else lineIn c.inward

def measureTap (c : Context) : Tap := if c.isTail then dropTap c.inward else lineOut c.out

def side (c : Context) : Side := if c.isTail then .drop else .lineOut

/-- R3, R15: the owned port by degree, side and channel slot. -/
def port (c : Context) : Degree × Side × Channel := (c.link, c.side, c.channel)

/-- R15: the tone claim. -/
def toneClaim (c : Context) : Tap × Tone := (c.watchTap, c.tone)

/-- The source of a SET entry as R191 codes it: 8 ADD, otherwise the line input of a degree (R168). -/
def source (c : Context) : Nat := if c.head then 8 else c.inward.val

/-- R134: the requests of heads and TRANSITs are span-charged, a TAIL's are not (R128). -/
def charged (c : Context) : Bool := !c.isTail

def live (c : Context) : Bool := c.state != .ended

/-- R4: the open states. -/
def isOpen (c : Context) : Bool :=
  match c.state with
  | .opening | .following | .ramping | .settled => true
  | .armed | .adopting | .commissioned | .lost | .withdrawing | .ended => false

/-- R4: the listening states, in which the context watches. -/
def listening (c : Context) : Bool :=
  match c.state with
  | .armed | .opening | .following | .ramping | .settled | .lost | .withdrawing => true
  | .adopting | .commissioned | .ended => false

/-- R4: the states in which the context also measures. -/
def measuring (c : Context) : Bool := c.listening && c.state != .armed

/-- R26: the states in which elapsed counts. -/
def counting (c : Context) : Bool := (c.listening || c.state == .adopting) && !c.frozen

/-- R17: a live record that carries the group's number. -/
def memberOf (c : Context) (g : Nat) : Bool := c.live && c.group == some g

/-- What the change flag reports: state, condition flags, outcome, partner (R12). -/
def shown (c : Context) : CtxState × CondFlags × Option Ending × Option Slot :=
  (c.state, c.flags, c.outcome, c.partner)

/-- R3. -/
def target (c : Context) (s : State) : Nat :=
  c.targetOverride.getD
    (if c.isTail then (s.degreeCfg c.inward).dropTarget else (s.degreeCfg c.out).launch)

end Context

/-- The attenuation as a number. A port that is not at a number is counted as fully attenuated
(R115: a leveling consultation has a number; log entry 21). -/
def Atten.level : Atten → Nat
  | .tenths n => n
  | .blocked => maxAtten
  | .unknown => maxAtten

/-- R118: the planner consulted about a context (R115). -/
def Context.plan (c : Context) (s : State) : Plan :=
  planStep (c.lastPower.getD 0) (c.target s) c.tTol c.sNom c.atten.level

namespace State

/-- Writes a record and, when its state, condition flags, outcome or partner change, sets the slot's
change flag (R12). -/
def putRecord (i : Slot) (c : Option Context) (s : State) : State :=
  if c.map Context.shown = (s.ctx i).map Context.shown then s.setRecord i c
  else (s.setRecord i c).markChange i

/-- Changes a record that is not IDLE. -/
def modCtx (i : Slot) (f : Context → Context) (s : State) : State :=
  match s.ctx i with
  | none => s
  | some c => s.putRecord i (some (f c))

/-- Changes the condition flags of a record. -/
def modFlags (i : Slot) (f : CondFlags → CondFlags) (s : State) : State :=
  s.modCtx i fun c => { c with flags := f c.flags }

def modLink (d : Degree) (f : Link → Link) (s : State) : State := s.setLink d (f (s.link d))

end State

/-! ## Requests (R163) -/

/-- What names a request on its list: its context, or its group. -/
inductive ReqKey where
  | single (slot : Slot)
  | group (number : Nat)
  deriving DecidableEq, Repr

namespace Request

def key (r : Request) : ReqKey :=
  match r.body with
  | .single _ slot _ _ _ => .single slot
  | .group number _ _ _ => .group number

/-- The contexts whose request this is (R144, R163). -/
def holders (r : Request) : List Slot :=
  match r.body with
  | .single _ slot _ _ _ => [slot]
  | .group _ entries _ _ => entries.map (·.slot)

/-- R163: the poster's slot, or the lowest entry slot of a group. -/
def position (r : Request) : Nat := r.holders.foldl (fun n i => min n i.val) 64

/-- The request is a BLOCK. -/
def isBlock (r : Request) : Bool :=
  match r.body with
  | .single .block _ _ _ _ => true
  | .single .openPort _ _ _ _ | .single .step _ _ _ _ | .single .withdrawStep _ _ _ _
  | .single .read _ _ _ _ | .group _ _ _ _ => false

/-- The request is passed over at a decision (R166). -/
def held (r : Request) : Bool := r.budgetHold || r.guardHold

end Request

/-- The request of a context on a link's list, its own or its group's. -/
def Link.requestOf (l : Link) (i : Slot) : Option Request :=
  l.requests.find? fun r => r.holders.contains i

/-- The request of a key on a link's list. -/
def Link.requestBy (l : Link) (k : ReqKey) : Option Request :=
  l.requests.find? fun r => r.key == k

namespace State

/-- The request a context has on its link. -/
def requestOf (s : State) (c : Context) (i : Slot) : Option Request := (s.link c.link).requestOf i

/-- R7: the hold flags of a context as its link has them: BUDGET_WAIT and GUARD_HOLD from its request,
LINK_HOLD while a FAULTED link has its request or its step in flight (R174). -/
def syncHolds (i : Slot) (s : State) : State :=
  s.modCtx i fun c =>
    let r := s.requestOf c i
    { c with flags :=
      { c.flags with
        budgetWait := r.any (·.budgetHold)
        guardHold := r.any (·.guardHold)
        linkHold := (s.link c.link).state == .faulted && (r.isSome || c.step.isSome) } }

/-- The hold flags of every context of a link. -/
def syncLink (d : Degree) (s : State) : State :=
  allSlots.foldl
    (fun s i => if (s.ctx i).any (·.link == d) then s.syncHolds i else s) s

def setRequests (d : Degree) (rs : List Request) (s : State) : State :=
  s.modLink d fun l => { l with requests := rs }

/-- Changes the requests of a key. -/
def modRequest (d : Degree) (k : ReqKey) (f : Request → Request) (s : State) : State :=
  s.setRequests d ((s.link d).requests.map fun r => if r.key = k then f r else r)

end State

/-! ## The priority visit queue (R54) -/

/-- R54: an enqueue appends a tap that is not in the queue and ignores one that is. -/
def enqueueTap (t : Tap) (q : List Tap) : List Tap := if q.contains t then q else q ++ [t]

def State.enqueue (t : Tap) (s : State) : State :=
  { s with tae := { s.tae with queue := enqueueTap t s.tae.queue } }

end Sys2Proof.Machine
end

