-- ==== Sys2Proof/Machine/Flags.lean ====
section
/-! DEFINITION. What a context receives from a visit (R66, R67) and the condition flags computed from it
(R7, R8, R73, R93, R94). -/

namespace Sys2Proof.Machine

/-- R66: the census entry for a context's tone index, or the absent form. -/
structure WatchReport where
  latest : Option Nat
  decoded : Option (Channel × ToneState)
  lastDecoded : Bool
  presence : Nat
  absence : Nat
  undecoded : Nat
  stable : Nat
  deriving DecidableEq, Repr

/-- R66: the absent form. -/
def WatchReport.missing : WatchReport :=
  { latest := none, decoded := none, lastDecoded := false, presence := 0, absence := 8,
    undecoded := 0, stable := 0 }

def censusFind (census : List CensusEntry) (tone : Tone) : Option CensusEntry :=
  census.find? fun e => e.tone == tone

/-- R66. -/
def watchReport (census : List CensusEntry) (tone : Tone) : WatchReport :=
  match censusFind census tone with
  | none => WatchReport.missing
  | some e =>
    { latest := some e.latest, decoded := e.decoded, lastDecoded := e.lastDecoded,
      presence := e.presence, absence := e.absence, undecoded := e.undecoded, stable := e.stable }

/-- R67: the measured power, 0 when the tone is absent in this visit or has no entry. -/
def measuredPower (census : List CensusEntry) (tone : Tone) : Nat :=
  match censusFind census tone with
  | none => 0
  | some e => if e.absence = 0 then e.latest else 0

/-- R80: the measure entry's report in this visit was stable. -/
def stableReport (census : List CensusEntry) (tone : Tone) : Bool :=
  match censusFind census tone with
  | none => false
  | some e => 1 ≤ e.stable

namespace WatchReport

/-- R66: the watched tone is present in this visit. -/
def present (r : WatchReport) : Bool := r.absence == 0

/-- What a DECODED report carries, whether or not the tone is present in this visit (R66). -/
def said (r : WatchReport) : Option (Channel × ToneState) := if r.lastDecoded then r.decoded else none

/-- What a present, DECODED report carries (R93). -/
def heard (r : WatchReport) : Option (Channel × ToneState) :=
  if r.present && r.lastDecoded then r.decoded else none

/-- R85, R106. -/
def loss (r : WatchReport) (cfg : PartConfig) : Bool := cfg.lossCount ≤ r.absence

/-- R73: the report carries a decoded slot that differs from the context's. -/
def mismatch (r : WatchReport) (channel : Channel) : Bool := r.decoded.any (·.1 != channel)

/-- R73. -/
def collision (r : WatchReport) (cfg : PartConfig) : Bool := cfg.collisionCount ≤ r.undecoded

/-- R74, R95: the opening condition. -/
def opens (r : WatchReport) (channel : Channel) (cfg : PartConfig) : Bool :=
  decide (cfg.dwell ≤ r.presence) &&
    match r.heard with
    | none => false
    | some (slot, state) => slot == channel && state != .withdraw

/-- R94: upstream is ready. -/
def ready (r : WatchReport) (channel : Channel) (cfg : PartConfig) : Bool :=
  decide (cfg.stabilityCount ≤ r.stable) &&
    match r.heard with
    | none => false
    | some (slot, state) => slot == channel && (state == .settled || state == .commissioned)

end WatchReport

/-- No condition flag set. -/
def CondFlags.clear : CondFlags :=
  { mismatch := false, collision := false, upstreamUnstable := false, budgetWait := false,
    guardHold := false, linkHold := false, short := false, excess := false, unleveled := false,
    adopted := false, keyerReleased := false, lateReply := false }

/-- R8: SHORT or EXCESS on settling at a limit. -/
def CondFlags.atLimit (f : CondFlags) : Option Limit → CondFlags
  | none => f
  | some .short => { f with short := true }
  | some .excess => { f with excess := true }

/-- R7, R8, R94, R105: what entering a state does to the condition flags. The three hold flags follow
the link (`State.syncHolds`). -/
def CondFlags.enter (f : CondFlags) (old new : CtxState) : CondFlags :=
  match new with
  | .armed => { f with upstreamUnstable := false }
  | .ramping => { f with short := false, excess := false }
  | .settled => { f with upstreamUnstable := false }
  | .commissioned =>
    { f with
      mismatch := false, collision := false, upstreamUnstable := false, budgetWait := false
      guardHold := false, linkHold := false
      unleveled := f.unleveled || (old != .settled && old != .adopting) }
  | .adopting => f
  | .opening => f
  | .following => f
  | .lost => f
  | .withdrawing => f
  | .ended => f

/-- The states that a record's state is left for (R4, R10, R22, R23, R27, R75 to R92, R95 to R112): the
progress of a context as the chapters give it. A refused BLOCK takes a LOST context through WITHDRAWING
to ENDED at once (R86, R107). -/
def CtxState.leadsTo (old new : CtxState) : Bool :=
  match old with
  | .armed => new == .opening || new == .ended
  | .adopting => new == .commissioned || new == .ended
  | .opening =>
    new == .following || new == .ramping || new == .commissioned || new == .lost ||
      new == .withdrawing
  | .following => new == .ramping || new == .commissioned || new == .lost || new == .withdrawing
  | .ramping => new == .settled || new == .commissioned || new == .lost || new == .withdrawing
  | .settled => new == .ramping || new == .commissioned || new == .lost || new == .withdrawing
  | .commissioned => new == .withdrawing
  | .lost => new == .armed || new == .withdrawing || new == .ended
  | .withdrawing => new == .ended
  | .ended => false

/-- What entering a state does to a record, whatever the way there: its flags; the drift count, present
in SETTLED alone (R79); the commission heard mark, present in OPENING, FOLLOWING and RAMPING alone
(R104); the withdraw cause, present in WITHDRAWING alone (R2; log entry 18); elapsed frozen at
COMMISSIONED (R26); and the loss of its watch tone, which counts as none until the next report after
COMMISSIONED (R89, R113). -/
def Context.enter (c : Context) (new : CtxState) : Context :=
  { c with
    state := new
    flags := c.flags.enter c.state new
    drift := if new = .settled then some 0 else none
    heard := c.heard && (new == .opening || new == .following || new == .ramping)
    cause := none
    frozen := c.frozen || new == .commissioned
    inLoss := c.inLoss && new != .commissioned
    mustBlock := new == .withdrawing && c.state == .lost }

end Sys2Proof.Machine
end

