-- ==== Sys2Proof/Machine/Census.lean ====
section
/-! DEFINITION. The Tone Analysis Engine (03_tap_scanning_and_the_tone_census.md): readings, the census,
and the order of visits. -/

namespace Sys2Proof.Machine

/-- R52: a raw total power as a reading. -/
def readingOf (raw : Nat) : Reading := { value := min raw maxPower, saturated := maxPower ≤ raw }

/-- R59: an absent value is read as 0 without the mark. -/
def readPower (r : Option Reading) : Nat := (r.map (·.value)).getD 0

/-- What the report of a visit holds of a present tone (R51): its power estimate and decode outcome. -/
structure ToneReport where
  power : Nat
  decoded : Option (Channel × ToneState)
  deriving DecidableEq, Repr

/-- R34, R35, R52: the report of one tone, none when it is absent. -/
def toneReport (threshold : Nat) (reading : VisitReading) (tone : Tone) : Option ToneReport :=
  match reading.tones.find? (fun t => t.tone == tone) with
  | none => none
  | some t =>
    if threshold ≤ min t.power maxPower then
      some { power := min t.power maxPower, decoded := decodeWindow tone t.decisions }
    else none

/-- R62: Y by the stability level. -/
def stabilityFactor : Nat → Nat
  | 0 => 24
  | 1 => 48
  | 2 => 73
  | _ => 125

/-- R62: the stability test. -/
def stableTest (level latest prior : Nat) : Bool :=
  ((latest - prior) + (prior - latest)) * 1024 ≤ prior * stabilityFactor level

/-- R62: a present report of a listed tone. -/
def CensusEntry.heard (e : CensusEntry) (level : Nat) (r : ToneReport) : CensusEntry :=
  { e with
    latest := r.power
    prior := e.latest
    presence := min 255 (e.presence + 1)
    absence := 0
    stable := if stableTest level r.power e.latest then min 15 (e.stable + 1) else 0
    decoded := if r.decoded.isSome then r.decoded else e.decoded
    lastDecoded := r.decoded.isSome
    undecoded := if r.decoded.isSome then 0 else min 15 (e.undecoded + 1) }

/-- R63: an absent report of a listed tone; none when the tone is purged. -/
def CensusEntry.missed (e : CensusEntry) : Option CensusEntry :=
  if 8 ≤ e.absence + 1 then none
  else some { e with absence := e.absence + 1, presence := 0, stable := 0 }

/-- R64: a new entry. -/
def CensusEntry.arrival (tone : Tone) (r : ToneReport) : CensusEntry :=
  { tone := tone, latest := r.power, prior := 0, decoded := r.decoded,
    lastDecoded := r.decoded.isSome, presence := 1, absence := 0,
    undecoded := if r.decoded.isSome then 0 else 1, stable := 0 }

/-- R64: a new entry is placed in its ascending position. -/
def insertEntry (e : CensusEntry) : List CensusEntry → List CensusEntry
  | [] => [e]
  | x :: xs => if e.tone < x.tone then e :: x :: xs else x :: insertEntry e xs

/-- R60. -/
def censusLimit : Nat := 128

/-- R61, first pass. -/
def firstPass (level : Nat) (report : Tone → Option ToneReport) (census : List CensusEntry) :
    List CensusEntry :=
  census.filterMap fun e =>
    match report e.tone with
    | some r => some (e.heard level r)
    | none => e.missed

/-- R65: the weakest unwatched entry, the lowest tone index among equals. -/
def weakest (watched : Tone → Bool) : List CensusEntry → Option CensusEntry
  | [] => none
  | e :: es =>
    if watched e.tone then weakest watched es
    else
      match weakest watched es with
      | none => some e
      | some w => if w.latest < e.latest then some w else some e

/-- R64, R65: one present tone in the second pass, with whether a tone was not entered. -/
def admitTone (watched : Tone → Bool) (report : Tone → Option ToneReport)
    (acc : List CensusEntry × Bool) (tone : Tone) : List CensusEntry × Bool :=
  match report tone with
  | none => acc
  | some r =>
    if (censusFind acc.1 tone).isSome then acc
    else if acc.1.length < censusLimit then (insertEntry (.arrival tone r) acc.1, acc.2)
    else if watched tone then
      match weakest watched acc.1 with
      | none => (acc.1, true)
      | some w => (insertEntry (.arrival tone r) (acc.1.filter fun e => e.tone != w.tone), acc.2)
    else (acc.1, true)

/-- R61: the tones that are present and had no entry when the visit ended or after its first pass, in
ascending tone index, with whether a tone was not entered. -/
def secondPass (watched : Tone → Bool) (report : Tone → Option ToneReport)
    (census : List CensusEntry) : List CensusEntry × Bool :=
  (allTones.filter fun t => (report t).isSome && (censusFind census t).isNone).foldl
    (admitTone watched report) (census, false)

namespace State

/-- R4, R60: the pair is watched or measured by a listening context. -/
def watched (s : State) (t : Tap) (tone : Tone) : Bool :=
  allSlots.any fun i =>
    match s.ctx i with
    | none => false
    | some c =>
      c.tone == tone &&
        ((c.listening && c.watchTap == t) || (c.measuring && c.measureTap == t))

/-- R50: the taps of a present degree are scanned. -/
def scanned (s : State) (t : Tap) : Bool := s.present (tapDegree t)

/-- R58: the total powers at the end of a visit, and the degree flag SATURATED. -/
def capturePower (t : Tap) (reading : VisitReading) (s : State) : State :=
  let s1 := s.setTap t
    { s.tap t with latest := some (readingOf reading.total), prior := (s.tap t).latest }
  if (readingOf reading.total).saturated then
    s1.markDegree (tapDegree t) fun f => { f with saturated := true }
  else s1

/-- R61: the report applied to the tap's census, and the degree flag CENSUS_FULL (R65). -/
def updateCensus (t : Tap) (reading : VisitReading) (s : State) : State :=
  let report := toneReport s.cfg.presence reading
  let first := firstPass s.cfg.stabilityLevel report (s.tap t).census
  let second := secondPass (s.watched t) report first
  let s1 := s.setTap t { s.tap t with census := second.1 }
  if second.2 then s1.markDegree (tapDegree t) fun f => { f with censusFull := true } else s1

/-- R56: the LINE_OUT tap of each GUARDED degree, except the degree whose LINE_OUT was visited. -/
def enqueueGuarded (t : Tap) (s : State) : State :=
  allDegrees.foldl
    (fun s d => if s.guarded d && lineOut d != t then s.enqueue (lineOut d) else s) s

/-- R53: the tap the round robin supplies, the next scanned tap above the scan pointer or else the
lowest; none while no degree is present. -/
def roundRobin (s : State) : Option Tap :=
  let above := allTaps.find? fun t =>
    s.scanned t && (s.tae.scanPointer.map (fun p => decide (p < t))).getD true
  match above with
  | some t => some t
  | none => allTaps.find? fun t => s.scanned t

/-- R53, R57: a round-robin visit begins. -/
def beginRoundRobin (s : State) : State :=
  match s.roundRobin with
  | none => { s with tae := { s.tae with visit := none, priorityRun := 0, ended := false } }
  | some t =>
    { s with tae :=
      { s.tae with
        visit := some t, scanPointer := some t, priorityRun := 0
        visits := s.tae.visits + 1, ended := false } }

/-- R57: the choice of the next visit. -/
def chooseVisit (s : State) : State :=
  match s.tae.queue with
  | t :: rest =>
    if s.tae.priorityRun < 3 then
      { s with tae :=
        { s.tae with
          visit := some t, queue := rest, priorityRun := s.tae.priorityRun + 1
          visits := s.tae.visits + 1, ended := false } }
    else s.beginRoundRobin
  | [] => s.beginRoundRobin

/-- R72: on acceptance of RESTART the visit in progress is abandoned. -/
def stopScan (s : State) : State :=
  { s with tae := { s.tae with visit := none, ended := false } }

end State

end Sys2Proof.Machine
end

