-- ==== Sys2Proof/Machine/Budgets.lean ====
section
/-! DEFINITION. The Budget Unit (07_span_power_budgets.md) and the Excursion Monitor
(09_guard_mode.md). -/

namespace Sys2Proof.Machine

/-- R132: the window that starts at a LINE_OUT power `power`. -/
def Window.start (cfg : PartConfig) (deg : DegreeConfig) (cause : StartCause) (power : Nat) : Window :=
  { framesLeft := cfg.window, cause := cause, startPower := power,
    allowance :=
      if power < deg.floor then none
      else
        some { budget := max 1 (power * deg.fraction / 1024)
               remaining := max 1 (power * deg.fraction / 1024) } }

/-- R134: the Budget Unit's answer. -/
inductive Offer where
  | grant (size charge : Nat)
  | uncharged
  | hold
  deriving DecidableEq, Repr

/-- R135 to R138: the answer to a request offered at a size, with its charge at each size; `shrinks` is
false for an OPEN_PORT. A degree with no window holds (R130: a present degree in RUN has one; log
entry 21). -/
def Budget.offer (b : Budget) (charge : Nat → Nat) (size : Nat) (shrinks : Bool) : Offer :=
  match b.window with
  | none => .hold
  | some w =>
    match w.allowance with
    | none => .uncharged
    | some a =>
      if charge size ≤ a.remaining then .grant size (charge size)
      else if shrinks then
        match largest (fun n => charge n ≤ a.remaining) (size - 1) with
        | some n => .grant n (charge n)
        | none => .hold
      else .hold

/-- R135: a reservation. -/
def Budget.reserve (b : Budget) (charge : Nat) : Budget :=
  { b with window := b.window.map fun w =>
    { w with allowance := w.allowance.map fun a => { a with remaining := a.remaining - charge } } }

/-- R151: X by the excursion level. -/
def excursionFactor : Nat → Nat
  | 0 => 73
  | 1 => 125
  | 2 => 265
  | _ => 599

/-- R152: E stops at the ends of a signed 32-bit value. -/
def clampExpected (e : Int) : Int := max (-2147483648) (min 2147483647 e)

/-- R153: the outcome at a LINE_OUT visit end and the D of a test that was made. -/
def excursionTest (latest prior : Option Reading) (floor level : Nat) (expected : Int) :
    LastTest × Option Int :=
  if latest.any (·.saturated) then (.saturated, none)
  else if readPower prior < floor then (.skipped, none)
  else
    let d : Int := readPower latest - readPower prior - expected
    if readPower prior * excursionFactor level < min d.natAbs maxPower * 1024 then
      (.excursion, some d)
    else (.clean, some d)

/-- R152 to R154: the monitor's state after a test. -/
def Guard.judge (g : Guard) (outcome : LastTest × Option Int) (exitCount : Nat) : Guard :=
  let g1 :=
    { g with
      expected := 0, lastTest := outcome.1
      lastD := if outcome.2.isSome then outcome.2 else g.lastD }
  match outcome.1 with
  | .excursion | .saturated => { g1 with auto := true, clean := 0 }
  | .clean | .skipped =>
    if g.auto then
      if exitCount ≤ g.clean + 1 then { g1 with auto := false, clean := 0 }
      else { g1 with clean := g.clean + 1 }
    else g1
  | .none => g1

namespace State

/-- Every hold of a kind on a degree's link is lifted or taken. -/
def modRequests (d : Degree) (f : Request → Request) (s : State) : State :=
  (s.setRequests d ((s.link d).requests.map f)).syncLink d

/-- R131 to R133, R138: a window starts, and every budget hold on the degree's link is lifted. -/
def startWindow (d : Degree) (cause : StartCause) (s : State) : State :=
  let w := Window.start s.cfg (s.degreeCfg d) cause (readPower (s.tap (lineOut d)).latest)
  (s.setBudget d { s.budget d with window := some w }).modRequests d
    fun r => { r with budgetHold := false }

/-- R156, R157: entry to GUARDED. -/
def enterGuard (d : Degree) (s : State) : State :=
  (s.markDegree d fun f => { f with guardEntered := true }).modRequests d
    fun r => { r with guardHold := r.guardHold || r.spanCharged }

/-- R158: entry to OPEN. -/
def leaveGuard (d : Degree) (s : State) : State :=
  ((s.markDegree d fun f => { f with guardLeft := true }).startWindow d .guardExit).modRequests d
    fun r => { r with guardHold := false }

/-- R156, R158: the guard state follows the two causes. -/
def putGuard (d : Degree) (g : Guard) (s : State) : State :=
  let s1 := s.setGuard d g
  if !s.guarded d && s1.guarded d then s1.enterGuard d
  else if s.guarded d && !s1.guarded d then s1.leaveGuard d
  else s1

/-- R152: a completion's change added to E. -/
def addExpected (d : Degree) (change : Int) (s : State) : State :=
  s.setGuard d { s.guard d with expected := clampExpected ((s.guard d).expected + change) }

/-- R153, R154: the excursion test at the end of a visit of a LINE_OUT tap. -/
def testExcursion (t : Tap) (s : State) : State :=
  if tapKind t = 1 then
    let d := tapDegree t
    s.putGuard d
      ((s.guard d).judge
        (excursionTest (s.tap t).latest (s.tap t).prior (s.degreeCfg d).floor
          (s.degreeCfg d).excursionLevel (s.guard d).expected)
        s.cfg.guardExit)
  else s

end State

end Sys2Proof.Machine
end

