-- ==== Sys2Proof/Machine/Keyers.lean ====
section
/-! DEFINITION. The Keyer Bank (02_the_pilot_tone_layer.md). -/

namespace Sys2Proof.Machine

/-- R39: the keyed tone state of a context that holds a keyer, by its state. -/
def CtxState.keyed : CtxState → Option ToneState
  | .armed => some .probe
  | .opening => some .probe
  | .lost => some .probe
  | .ramping => some .ramp
  | .settled => some .settled
  | .commissioned => some .commissioned
  | .withdrawing => some .withdraw
  | .adopting => none
  | .following => none
  | .ended => none

/-- R39: the word of a context for a tone state. -/
def Context.word (c : Context) (st : ToneState) : ToneWord :=
  { tone := c.tone, channel := c.channel, state := st }

/-- The keyer puts symbols on its transponder (R37). -/
def Keyer.sending (k : Keyer) : Bool := k.output != .silent

/-- R37, R42: a keyer that begins to send PROBE for a context. -/
def Keyer.start (k : Keyer) (c : Context) : Keyer :=
  { k with output := .keying, active := some (c.word .probe), staged := none, position := some 0 }

/-- R41: a word boundary, and the sending of symbol 0. -/
def Keyer.boundary (k : Keyer) : Keyer :=
  { k with
    active := if k.staged.isSome then k.staged else k.active
    staged := none
    position := some 0 }

namespace State

def modKeyer (k : KeyerNo) (f : Keyer → Keyer) (s : State) : State := s.setKeyer k (f (s.keyer k))

/-- R30: the frequency in hertz at which a bound keyer dithers, that of its context's tone index. -/
def keyerHertz (s : State) (k : KeyerNo) : Option Nat :=
  ((s.keyer k).bound.bind s.ctx).map fun c => toneHertz c.tone

/-- R30, R37: the dither on a keyer's transponder: the frequency in hertz with the phase of the symbol being
sent, none while the keyer is SILENT. -/
def dither (s : State) (k : KeyerNo) : Option (Nat × Bool) :=
  (s.keyerHertz k).bind fun hertz => (s.keyer k).symbol.map fun phase => (hertz, phase)

/-- R18, R38: the lowest-numbered free keyer. -/
def freeKeyer? (s : State) : Option KeyerNo :=
  allKeyers.find? fun k => (s.keyer k).bound.isNone

/-- R40: the context's keyer, when it is in KEYING or LINGER, stages the word of its state. -/
def stageWord (i : Slot) (s : State) : State :=
  match s.ctx i with
  | none => s
  | some c =>
    match c.keyer, c.state.keyed with
    | some k, some st =>
      if (s.keyer k).sending then s.modKeyer k fun x => { x with staged := some (c.word st) } else s
    | _, _ => s

/-- R45: the keyer of a context is freed at once. -/
def releaseKeyer (i : Slot) (s : State) : State :=
  match s.ctx i with
  | none => s
  | some c =>
    match c.keyer with
    | none => s
    | some k => (s.setKeyer k Keyer.free).modCtx i fun c => { c with keyer := none }

/-- R43: on entry to COMMISSIONED the keyer enters LINGER. -/
def lingerKeyer (i : Slot) (s : State) : State :=
  match s.ctx i with
  | none => s
  | some c =>
    match c.keyer with
    | none => s
    | some k => s.modKeyer k fun x => { x with output := .linger, lingerCount := s.cfg.linger }

/-- R42, R81: a SILENT keyer starts sending PROBE for its context. -/
def startKeyer (i : Slot) (s : State) : State :=
  match s.ctx i with
  | none => s
  | some c =>
    match c.keyer with
    | none => s
    | some k => s.modKeyer k fun x => x.start c

end State

end Sys2Proof.Machine
end

