-- ==== Sys2Proof/Machine/Contexts.lean ====
section
/-! DEFINITION. Requests on the lists (R144, R145, R163, R164), the states a context enters, ramp groups
(08_ramp_groups.md), and what the sequencing chapters do at each entry. Nothing here runs an arbiter:
a decision follows the whole reaction of a context to an arrival (log entry 6). -/

namespace Sys2Proof.Machine

/-! ## Forming requests -/

/-- R163: the level of an OPEN_PORT or STEP. -/
def Context.level (c : Context) : Level :=
  match c.priority with
  | .high => .high
  | .low => .low

/-- A request of one context. A span-charged one on a GUARDED degree takes its guard hold at once
(R157, R164). -/
def Context.request (c : Context) (s : State) (kind : ReqKind) (i : Slot) (level : Level)
    (dir : Option Direction) (size : Option Nat) (charge : Nat) : Request :=
  let charged :=
    match kind with
    | .openPort | .step | .withdrawStep => c.charged
    | .block | .read => false
  { body := .single kind i dir size charge, level := level, side := c.side, spanCharged := charged,
    budgetHold := false, guardHold := charged && s.guarded c.link }

/-- R144: the entry of a brightening candidate with its own size. -/
def Context.groupEntryOf (c : Context) (s : State) (i : Slot) : GroupEntry :=
  { slot := i, power := c.lastPower.getD 0, atten := c.atten.level,
    size := downSize (c.lastPower.getD 0) (c.target s) c.sNom c.atten.level }

/-- R144: the smallest size among the entries. -/
def commonSize (entries : List GroupEntry) : Nat :=
  entries.foldl (fun n e => min n e.size) 20

/-- R144: the sum of the entries' brightening charges at a size. -/
def groupCharge (entries : List GroupEntry) (size : Nat) : Nat :=
  (entries.map fun e => brightenCharge e.power size).sum

/-- R144, R145: the group request formed from its entries. -/
def State.groupRequest (s : State) (d : Degree) (g : Nat) (entries : List GroupEntry) : Request :=
  { body := .group g entries (commonSize entries) (groupCharge entries (commonSize entries))
    level :=
      if entries.any fun e => (s.ctx e.slot).any (·.priority == .high) then .high else .low
    side := .lineOut, spanCharged := true, budgetHold := false, guardHold := s.guarded d }

/-- The entries of a pending group request. -/
def Link.groupEntries (l : Link) (g : Nat) : List GroupEntry :=
  match l.requestBy (.group g) with
  | none => []
  | some r =>
    match r.body with
    | .group _ entries _ _ => entries
    | .single _ _ _ _ _ => []

/-- Entries stand in ascending slot order (R147). -/
def insertGroupEntry (e : GroupEntry) : List GroupEntry → List GroupEntry
  | [] => [e]
  | x :: xs =>
    if e.slot < x.slot then e :: x :: xs
    else if e.slot = x.slot then e :: xs
    else x :: insertGroupEntry e xs

namespace State

/-! ## Lists -/

/-- R144, R145: the group request now has these entries; with none it leaves the list. A context that
is an entry holds no other request. The marks and hold flags of the contexts concerned follow. -/
def setGroup (d : Degree) (g : Nat) (entries : List GroupEntry) (s : State) : State :=
  let slots := entries.map (·.slot)
  let old := ((s.link d).groupEntries g).map (·.slot)
  let others := (s.link d).requests.filter fun r =>
    r.key != .group g && !(r.holders.any slots.contains)
  let s1 := s.setRequests d (if entries.isEmpty then others else others ++ [s.groupRequest d g entries])
  (old ++ slots.filter fun i => !old.contains i).foldl
    (fun s i => (s.modCtx i fun c => { c with groupEntry := slots.contains i }).syncHolds i) s1

/-- R164, R145: the context's request leaves the list; an entry leaves its group's request, which is
formed again from the others. -/
def removeRequest (i : Slot) (s : State) : State :=
  match s.ctx i with
  | none => s
  | some c =>
    match s.requestOf c i with
    | none => s.syncHolds i
    | some r =>
      match r.body with
      | .single _ _ _ _ _ =>
        (s.setRequests c.link ((s.link c.link).requests.filter fun r => r.key != .single i)).syncHolds i
      | .group g entries _ _ => s.setGroup c.link g (entries.filter fun e => e.slot != i)

/-- R164: a request posted replaces the one its context has on the list; an entry leaves its group's
request (R145). The hold flags of the context follow once, when the new request stands, so that a flag
whose reason the new request shares does not clear (R7; log entry 28). -/
def postRequest (i : Slot) (r : Request) (s : State) : State :=
  match s.ctx i with
  | none => s
  | some c =>
    let s1 := s.setRequests c.link
      (((s.link c.link).requests.filter fun q => q.key != .single i) ++ [r])
    match (s.requestOf c i).map Request.body with
    | some (.group g entries _ _) => s1.setGroup c.link g (entries.filter fun e => e.slot != i)
    | some (.single _ _ _ _ _) => s1.syncHolds i
    | none => s1.syncHolds i

/-- Posts an URGENT BLOCK, unless one is pending (R90, R111). -/
def postBlock (i : Slot) (s : State) : State :=
  match s.ctx i with
  | none => s
  | some c =>
    if (s.requestOf c i).any (·.isBlock) then s
    else s.postRequest i (c.request s .block i .urgent none none 0)

/-- R89, R110, R122: posts a withdraw step at HIGH level. -/
def postWithdrawStep (i : Slot) (s : State) : State :=
  match s.ctx i with
  | none => s
  | some c =>
    let size := withdrawSize c.sNom c.atten.level
    let charge := if c.charged then withdrawCharge c.lastPower size else 0
    s.postRequest i (c.request s .withdrawStep i .high (some .up) (some size) charge)

/-- R74, R95: posts an OPEN_PORT with the opening charge of the report's power. -/
def postOpen (i : Slot) (pIn : Nat) (s : State) : State :=
  match s.ctx i with
  | none => s
  | some c =>
    s.postRequest i
      (c.request s .openPort i c.level none none (if c.charged then openCharge pIn else 0))

/-- R76, R98, R121: posts a STEP. -/
def postStep (i : Slot) (dir : Direction) (size : Nat) (s : State) : State :=
  match s.ctx i with
  | none => s
  | some c =>
    let charge := if c.charged then stepCharge dir (c.lastPower.getD 0) size else 0
    s.postRequest i (c.request s .step i c.level (some dir) (some size) charge)

/-- R21: posts the READ of an ADOPT at HIGH level. -/
def postRead (i : Slot) (s : State) : State :=
  match s.ctx i with
  | none => s
  | some c => s.postRequest i (c.request s .read i .high none none 0)

/-! ## Ramp groups -/

end State

/-- R143: a member of a group is poised. -/
def Context.poised (c : Context) : Bool :=
  c.state == .ramping && c.step.isNone && c.freshHeld && !c.flags.collision &&
    !(c.follower && c.flags.upstreamUnstable)

/-- R143: a poised member below its band is a brightening candidate. -/
def Context.candidate (c : Context) (s : State) : Bool :=
  c.poised &&
    match c.plan s with
    | .move .down _ => true
    | .move .up _ => false
    | .settle _ => false

/-- R9, R11, R85, R103, R106, R123: the states on whose entry a pending request of the context leaves its
link's list. -/
def CtxState.clearsRequest : CtxState → Bool
  | .armed => true
  | .settled => true
  | .commissioned => true
  | .lost => true
  | .withdrawing => true
  | .ended => true
  | .adopting => false
  | .opening => false
  | .following => false
  | .ramping => false

namespace State

/-- R144: the members of a group in RAMPING. -/
def rampingMembers (s : State) (g : Nat) : List Slot :=
  allSlots.filter fun i => (s.ctx i).any fun c => c.memberOf g && c.state == .ramping

/-- R144: the entries of a group's brightening candidates, in ascending slot order. -/
def candidateEntries (s : State) (g : Nat) : List GroupEntry :=
  (s.rampingMembers g).filterMap fun i =>
    match s.ctx i with
    | none => none
    | some c => if c.candidate s then some (c.groupEntryOf s i) else none

/-- R144: evaluates a group; it posts a group request when none is pending, every member in RAMPING is
poised, and one of them is a brightening candidate. Nothing else is asked, so one may be posted while a
group command is in flight whose members have all left RAMPING (R149; log entry 30). -/
def evaluateGroup (d : Degree) (g : Nat) (s : State) : State :=
  if ((s.link d).requestBy (.group g)).isSome then s
  else if (s.rampingMembers g).all (fun i => (s.ctx i).any (·.poised)) &&
      !(s.candidateEntries g).isEmpty then
    s.setGroup d g (s.candidateEntries g)
  else s

/-- Evaluates the group a record carries, if it carries one. -/
def evaluateGroupOf (c : Context) (s : State) : State :=
  match c.group with
  | none => s
  | some g => s.evaluateGroup c.link g

/-- R143 to R145: a poised member below its band joins the pending group request or has its figures
there formed again, also when it has left that same request since it was posted (R145; log entry 32); with
none pending the group is evaluated. A step request of its own that no
longer fits leaves the list (R121; log entry 8), replaced by the group request when one is posted. -/
def joinGroup (i : Slot) (c : Context) (g : Nat) (s : State) : State :=
  if ((s.link c.link).requestBy (.group g)).isSome then
    s.setGroup c.link g (insertGroupEntry (c.groupEntryOf s i) ((s.link c.link).groupEntries g))
  else
    let s1 := s.evaluateGroup c.link g
    if ((s1.link c.link).requestBy (.group g)).isSome then s1 else s1.removeRequest i

/-! ## Entering a state -/

/-- A context enters a state that its own leads to, with `f` written at the same time: what the entry does
to the record (`Context.enter`), the word staged in its keyer (R40), its request removed where the state
has none of its old ones (R9, R11, R85, R103, R106, R123), and its group evaluated when it leaves
RAMPING or leaves the group (R144). -/
def changeState (i : Slot) (st : CtxState) (f : Context → Context) (s : State) : State :=
  match s.ctx i with
  | none => s
  | some c =>
    if c.state.leadsTo st then
      let s1 := (s.modCtx i fun c => f (c.enter st)).stageWord i
      let s2 := if st.clearsRequest then s1.removeRequest i else s1
      if (c.state == .ramping && st != .ramping) || st == .ended then s2.evaluateGroupOf c else s2
    else s

/-! ## Commissioning and release (R81 to R84, R102, R105) -/

/-- R84, R105: entry to COMMISSIONED. -/
def commission (i : Slot) (s : State) : State := (s.changeState i .commissioned id).lingerKeyer i

/-- R81: the release of a HELD ANSWER. -/
def release (i : Slot) (s : State) : State :=
  ((s.modCtx i fun c => { c with answerHold := some .released }).startKeyer i).markChange i

/-- R81, R82, R102: a TAIL's entry to SETTLED reaches its partner. -/
def partnerOfSettledTail (p : Slot) (s : State) : State :=
  match s.ctx p with
  | none => s
  | some h =>
    match h.role with
    | .answer =>
      if h.state = .armed ∧ h.answerHold = some .held then s.release p else s
    | .origin => if h.state = .settled then s.commission p else s
    | .transit => s
    | .tail => s

/-- R81 to R83, R105: a TAIL's entry to COMMISSIONED reaches its partner. -/
def partnerOfCommissionedTail (p : Slot) (s : State) : State :=
  match s.ctx p with
  | none => s
  | some h =>
    match h.role with
    | .answer =>
      if h.state = .armed ∧ h.answerHold = some .held then s.release p
      else if h.state = .settled then s.commission p
      else s
    | .origin => if h.state = .settled then s.commission p else s
    | .transit => s
    | .tail => s

/-- The state of a record's partner. -/
def partnerState (c : Context) (s : State) : Option CtxState :=
  c.partner.bind fun p => (s.ctx p).map (·.state)

/-- R82, R83, R102: what an entry to SETTLED brings at once. -/
def afterSettled (i : Slot) (s : State) : State :=
  match s.ctx i with
  | none => s
  | some c =>
    match c.role with
    | .tail =>
      match c.partner with
      | none => s
      | some p => s.partnerOfSettledTail p
    | .origin =>
      if s.partnerState c = some .settled ∨ s.partnerState c = some .commissioned then s.commission i
      else s
    | .answer => if s.partnerState c = some .commissioned then s.commission i else s
    | .transit => s

/-- R79, R101: entry to SETTLED, with SHORT or EXCESS at a limit. -/
def settle (i : Slot) (limit : Option Limit) (s : State) : State :=
  (s.changeState i .settled fun c => { c with flags := c.flags.atLimit limit }).afterSettled i

/-- R105: a follower's or an adopted context's entry to COMMISSIONED, with `f` written at the same
time. -/
def commissionWith (i : Slot) (f : Context → Context) (s : State) : State :=
  let s1 := (s.changeState i .commissioned f).lingerKeyer i
  match s1.ctx i with
  | none => s1
  | some c =>
    match c.role, c.partner with
    | .tail, some p => s1.partnerOfCommissionedTail p
    | _, _ => s1

/-! ## Leveling (R76, R98) -/

/-- R94: a follower's readiness read from its watch tap's census as it stands; the flag follows. -/
def evaluateReady (i : Slot) (s : State) : State :=
  match s.ctx i with
  | none => s
  | some c =>
    if c.follower then
      let r := watchReport (s.tap c.watchTap).census c.tone
      s.modFlags i fun f => { f with upstreamUnstable := !r.ready c.channel s.cfg }
    else s

/-- R76, R98: the posting test of a context in RAMPING; `fresh` when it is made at a fresh
measurement. -/
def postingTest (i : Slot) (fresh : Bool) (s : State) : State :=
  match s.ctx i with
  | none => s
  | some c =>
    if c.poised && !c.heard && (fresh || (s.requestOf c i).isNone) then
      match c.plan s with
      | .settle limit => s.settle i limit
      | .move .up size => (s.postStep i .up size).evaluateGroupOf c
      | .move .down size =>
        match c.group with
        | none => s.postStep i .down size
        | some g => s.joinGroup i c g
    else s

/-- R75, R80, R97, R101: entry to RAMPING, with readiness evaluated at once (R94) and the posting test
made at once. -/
def enterRamping (i : Slot) (fresh : Bool) (s : State) : State :=
  ((s.changeState i .ramping id).evaluateReady i).postingTest i fresh

/-- R96, R97: entry to FOLLOWING, and to RAMPING at once when upstream is ready. -/
def enterFollowing (i : Slot) (s : State) : State :=
  let s1 := (s.changeState i .following id).evaluateReady i
  match s1.ctx i with
  | none => s1
  | some c => if c.flags.upstreamUnstable then s1 else s1.enterRamping i false

/-! ## Loss, withdrawal and endings (R9, R10, R85, R88 to R90, R106, R110) -/

/-- R85, R106: loss. -/
def lose (i : Slot) (s : State) : State :=
  let s1 := s.changeState i .lost id
  match s1.ctx i with
  | none => s1
  | some c => if c.step.isNone then s1.postBlock i else s1

end State

/-- R9, R88, R110: the next withdrawal request is an URGENT BLOCK whatever the attenuation. -/
def Context.blocksFirst (c : Context) : Bool :=
  c.mustBlock || c.inLoss || c.cause == some .switchRefused || c.cause == some .conflict

/-- R88, R110: the attenuation is at or above 240, or the port is not at a number. -/
def Context.dark (c : Context) : Bool := openAtten ≤ c.atten.level

namespace State

/-- R88, R89, R110: the request of a withdrawing context with no step in flight: an URGENT BLOCK, a
withdraw step when it holds a fresh measurement, or none yet. A context at 240 or more is blocked at once
whether or not it holds a fresh measurement (log entry 29). -/
def postWithdrawal (i : Slot) (s : State) : State :=
  match s.ctx i with
  | none => s
  | some c =>
    if c.step.isSome || (s.requestOf c i).any (·.isBlock) then s
    else if c.blocksFirst || c.dark then s.postBlock i
    else if c.freshHeld then s.postWithdrawStep i
    else s

/-- R9: entry to WITHDRAWING with a cause, and the first request when no step is in flight. -/
def withdraw (i : Slot) (cause : Ending) (s : State) : State :=
  (s.changeState i .withdrawing fun c => { c with cause := some cause }).postWithdrawal i

/-- R10, R11: entry to ENDED with an outcome. -/
def endContext (i : Slot) (outcome : Ending) (s : State) : State :=
  (s.releaseKeyer i).changeState i .ended fun c =>
    { c with
      outcome := some outcome
      portClosed := some (c.atten == .blocked && outcome != .adoptFailed)
      step := none, groupEntry := false }

/-- R91, R92: what the withdrawal or ending of a TAIL does to its partner. -/
def partnerEnded (p : Slot) (s : State) : State :=
  match s.ctx p with
  | none => s
  | some h =>
    if h.head then
      match h.state with
      | .armed => s.endContext p .partnerEnded
      | .opening | .ramping | .settled | .lost => s.withdraw p .partnerEnded
      | .following | .withdrawing | .adopting | .commissioned | .ended => s
    else s

end State

end Sys2Proof.Machine
end

