-- ==== Sys2Proof/Machine/Arbiter.lean ====
section
/-! DEFINITION. The arbiter of a link (10_switch_links.md, 10.3): its decisions, the recomputation of a
request at grant (R122, R123, R146), the offer to the Budget Unit and the grant (R167). -/

namespace Sys2Proof.Machine

/-! ## Rank (R166) -/

def Level.rank : Level → Nat
  | .urgent => 0
  | .high => 1
  | .low => 2

/-- R166: URGENT before HIGH before LOW, and within a level by ascending position. -/
def Request.precedes (a b : Request) : Bool :=
  decide (a.level.rank < b.level.rank) ||
    (a.level.rank == b.level.rank && decide (a.position ≤ b.position))

def insertRanked (r : Request) : List Request → List Request
  | [] => [r]
  | x :: xs => if r.precedes x then r :: x :: xs else x :: insertRanked r xs

/-- The requests of a list in rank order. -/
def ranked (rs : List Request) : List Request := rs.foldr insertRanked []

namespace State

/-! ## The grant (R167) -/

/-- R167: the link sends a command under the next number and enters BUSY. -/
def send (d : Degree) (cmd : LinkCommand) (s : State) : State :=
  s.modLink d fun l =>
    { l with
      state := .busy, command := some cmd, number := l.number + 1#8, timer := some 0
      accepted := false, retry := false
      lastFrame := commandFrame (l.number + 1#8) cmd, sendings := l.sendings + 1 }

/-- R167: a granted request leaves the list. -/
def takeRequest (d : Degree) (k : ReqKey) (s : State) : State :=
  s.setRequests d ((s.link d).requests.filter fun r => r.key != k)

/-- R135: the charge of a grant is reserved; a charge of 0 reserves nothing. -/
def reserve (d : Degree) (charge : Nat) (s : State) : State :=
  s.setBudget d ((s.budget d).reserve charge)

end State

/-- R6, R168: the step in flight a grant writes. -/
def StepInFlight.granted (kind : StepKind) (dir : Option Direction) (size : Nat) (a charge : Nat) :
    StepInFlight :=
  { kind := kind, direction := dir
    size := dir.map fun _ => size
    commanded :=
      match kind with
      | .openPort => some openAtten
      | .step | .groupStep | .withdrawStep => dir.map fun x => commandedAtten x a size
      | .block | .read => none
    charge := charge }

/-- R168: the entry of a command that carries a record's step. A BLOCK and a READ name the channel slot
alone, and R191 sends the other two bytes as 0. -/
def CommandEntry.carrying (i : Slot) (c : Context) (step : StepInFlight) : CommandEntry :=
  { slot := some i, channel := c.channel
    source :=
      match step.kind with
      | .block | .read => 0
      | .openPort | .step | .groupStep | .withdrawStep => c.source
    atten := step.commanded.getD 0
    kind := step.kind, direction := step.direction, charge := step.charge }

/-- R163: the states in which a request of a kind stands on the list. -/
def ReqKind.fits : ReqKind → CtxState → Bool
  | .openPort, st => st == .armed
  | .step, st => st == .ramping
  | .withdrawStep, st => st == .withdrawing
  | .block, st => st == .lost || st == .withdrawing
  | .read, st => st == .adopting

/-- R168: the command a step is built into. -/
def StepKind.command : StepKind → CommandKind
  | .openPort => .set
  | .step => .set
  | .groupStep => .set
  | .withdrawStep => .set
  | .block => .block
  | .read => .read

namespace State

/-- R167: the grant of a request of one context. For an OPEN_PORT it takes the context from ARMED to
OPENING (R75, R96). -/
def grantSingle (d : Degree) (i : Slot) (step : StepInFlight) (s : State) : State :=
  match s.ctx i with
  | none => s
  | some c =>
    let s1 := (s.takeRequest d (.single i)).reserve d step.charge
    let s2 := s1.modCtx i fun c => { c with step := some step }
    let s3 := s2.send d
      { kind := step.kind.command, side := c.side, entries := [.carrying i c step] }
    let s4 := s3.syncHolds i
    match step.kind with
    | .openPort => s4.changeState i .opening id
    | .step | .groupStep | .withdrawStep | .block | .read => s4

/-- R146: the step in flight of an entry of a granted group request. -/
def groupStep (e : GroupEntry) (size : Nat) (charged : Bool) : StepInFlight :=
  .granted .groupStep (some .down) size e.atten (if charged then brightenCharge e.power size else 0)

/-- R146, R147, R167: the grant of a group request at a size. -/
def grantGroup (d : Degree) (g : Nat) (entries : List GroupEntry) (size : Nat) (charged : Bool)
    (s : State) : State :=
  let s1 := (s.takeRequest d (.group g)).reserve d
    (if charged then groupCharge entries size else 0)
  let s2 := entries.foldl
    (fun s e => s.modCtx e.slot fun c =>
      { c with step := some (groupStep e size charged), groupEntry := false }) s1
  let s3 := s2.send d
    { kind := .set, side := .lineOut
      entries := entries.filterMap fun e =>
        (s.ctx e.slot).map fun c => .carrying e.slot c (groupStep e size charged) }
  entries.foldl (fun s e => s.syncHolds e.slot) s3

/-- R138: a request the Budget Unit holds. -/
def holdForBudget (d : Degree) (k : ReqKey) (holders : List Slot) (s : State) : State :=
  holders.foldl (fun s i => s.syncHolds i) (s.modRequest d k fun r => { r with budgetHold := true })

/-- R157: a span-charged request reached on a GUARDED degree. -/
def holdForGuard (d : Degree) (k : ReqKey) (holders : List Slot) (s : State) : State :=
  holders.foldl (fun s i => s.syncHolds i) (s.modRequest d k fun r => { r with guardHold := true })

/-! ## A request reached by a decision (R166) -/

/-- R134 to R138: a single context's action of a size and direction is granted, shrunk or held. A TAIL's
is granted at once. -/
def offerSingle (d : Degree) (i : Slot) (c : Context) (kind : StepKind) (dir : Option Direction)
    (size : Nat) (charge : Nat → Nat) (s : State) : State :=
  if c.charged then
    match (s.budget d).offer charge size dir.isSome with
    | .grant n x => s.grantSingle d i (.granted kind dir n c.atten.level x)
    | .uncharged => s.grantSingle d i (.granted kind dir size c.atten.level 0)
    | .hold => s.holdForBudget d (.single i) [i]
  else s.grantSingle d i (.granted kind dir size c.atten.level 0)

/-- R122, R123, R166: a single context's request reached at a decision. A request whose context has left
the states that post it has left the list with them (R123), so the arbiter does not reach it. -/
def reachSingle (d : Degree) (i : Slot) (kind : ReqKind) (charge : Nat) (s : State) : State :=
  match s.ctx i with
  | none => s
  | some c =>
    if kind.fits c.state then
      match kind with
      | .openPort => s.offerSingle d i c .openPort none 1 fun _ => charge
      | .step =>
        match c.plan s with
        | .settle limit => (s.removeRequest i).settle i limit
        | .move dir size =>
          s.offerSingle d i c .step (some dir) size (stepCharge dir (c.lastPower.getD 0))
      | .withdrawStep =>
        s.offerSingle d i c .withdrawStep (some .up) (withdrawSize c.sNom c.atten.level)
          (withdrawCharge c.lastPower)
      | .block => s.grantSingle d i (.granted .block none 0 c.atten.level 0)
      | .read => s.grantSingle d i (.granted .read none 0 c.atten.level 0)
    else s

/-- R146: an entry tested again at the grant: none when its context is not in RAMPING, which has then
left the request (R145); the entry still below its band with its size formed again; or the limit mark
with which its context settles. -/
def retest (e : GroupEntry) (s : State) : Option (GroupEntry ⊕ Option Limit) :=
  match s.ctx e.slot with
  | none => none
  | some c =>
    if c.state = .ramping then
      match c.plan s with
      | .settle limit => some (.inr limit)
      | .move _ _ => some (.inl (c.groupEntryOf s e.slot))
    else none

/-- R146: the entries that remain after the test at the grant. -/
def retested (entries : List GroupEntry) (s : State) : List GroupEntry :=
  entries.filterMap fun e => (s.retest e).bind Sum.getLeft?

/-- R146: the contexts of the entries found in band or at a limit enter SETTLED. -/
def settleDropped (entries : List GroupEntry) (s : State) : State :=
  entries.foldl
    (fun t e =>
      match (s.retest e).bind Sum.getRight? with
      | none => t
      | some limit => t.settle e.slot limit) s

/-- R146: the entries found in band or at a limit leave the request and their contexts settle. -/
def dropSettled (d : Degree) (g : Nat) (entries : List GroupEntry) (s : State) : State :=
  if (s.retested entries).length = entries.length then s
  else (s.setGroup d g (s.retested entries)).settleDropped entries

/-- R134 to R138, R146: the entries that remain are handled as one span-charged request. -/
def offerGroup (d : Degree) (g : Nat) (kept : List GroupEntry) (s : State) : State :=
  if kept.isEmpty then s
  else
    match (s.budget d).offer (groupCharge kept) (commonSize kept) true with
    | .grant n _ => s.grantGroup d g kept n true
    | .uncharged => s.grantGroup d g kept (commonSize kept) false
    | .hold => s.holdForBudget d (.group g) (kept.map (·.slot))

/-- R146: a group request reached at a decision. -/
def reachGroup (d : Degree) (g : Nat) (entries : List GroupEntry) (s : State) : State :=
  let s1 := s.dropSettled d g entries
  s1.offerGroup d g (s1.retested entries)

/-- R166: one request in its turn. -/
def reach (d : Degree) (r : Request) (s : State) : State :=
  if r.held then s
  else if r.spanCharged && s.guarded d then s.holdForGuard d r.key r.holders
  else
    match r.body with
    | .single kind slot _ _ charge => s.reachSingle d slot kind charge
    | .group g entries _ _ => s.reachGroup d g entries

/-! ## Decisions (R165, R166) -/

/-- R166: a decision over the requests named in rank order; the first grant ends it. -/
def decision (d : Degree) : List ReqKey → State → State
  | [], s => s
  | k :: ks, s =>
    match (s.link d).state with
    | .idle =>
      match (s.link d).requestBy k with
      | some r => decision d ks (s.reach d r)
      | none => decision d ks s
    | .absent | .busy | .retrying | .faulted => s

/-- R165: the link is IDLE and has a request that no hold passes over. -/
def decisionDue (d : Degree) (s : State) : Bool :=
  (s.link d).state == .idle && (s.link d).requests.any fun r => !r.held

/-- R165: decisions until none is due. A decision leaves only held requests or a command, so it is
repeated only for a request that the decision itself brought onto the list; the bound is above the
number of requests a list can hold (R163). -/
def decisions (d : Degree) : Nat → State → State
  | 0, s => s
  | n + 1, s =>
    if s.decisionDue d then
      decisions d n (s.decision d ((ranked (s.link d).requests).map (·.key)))
    else s

/-- R165: the arbiters decide, in RUN, on every link whose decision is due. Within a visit end they wait
for the moment the sender names (log entry 5). -/
def arbitrate (s : State) : State :=
  if s.part = .run ∧ !s.arbiterWaits then allDegrees.foldl (fun s d => s.decisions d 66) s
  else s

end State

end Sys2Proof.Machine
end

