-- ==== Sys2Proof/Machine/Endings.lean ====
section
/-! DEFINITION. A withdrawal or an ending with everything it brings: the decision on the context's link
and the coupling of a TAIL to its partner (R91, R92, R112). -/

namespace Sys2Proof.Machine

namespace State

/-- R112: the partner that a record's withdrawal or ending reaches: a TAIL's, when it has one. -/
def coupled (s : State) (i : Slot) : Option Slot :=
  match s.ctx i with
  | none => none
  | some c => if c.isTail then c.partner else none

/-- R91, R92, R112: a TAIL's withdrawal or ending reaches its partner, and a decision follows the
partner's reaction. -/
def couple (i : Slot) (s : State) : State :=
  match s.coupled i with
  | none => s
  | some p => (s.partnerEnded p).arbitrate

/-- R9: a context is withdrawn; the decision its own reaction calls for is taken before its partner's
reaction (log entry 6). -/
def withdrawFully (i : Slot) (cause : Ending) (s : State) : State :=
  ((s.withdraw i cause).arbitrate).couple i

/-- R10: a context is ended, in the same order. -/
def endFully (i : Slot) (outcome : Ending) (s : State) : State :=
  ((s.endContext i outcome).arbitrate).couple i

end State

end Sys2Proof.Machine
end

