-- ==== Sys2Proof/Machine/Reports.lean ====
section
/-! DEFINITION. What a context does with a watch report and with a measurement
(04_head_end_sequencing.md, 05_transit_and_tail_following.md). -/

namespace Sys2Proof.Machine

/-! ## Standing conditions -/

/-- R73, R93: MISMATCH and COLLISION of a report, and whether it finds the tone in loss (R85, R106). -/
def Context.note (c : Context) (r : WatchReport) (cfg : PartConfig) : Context :=
  { c with
    inLoss := r.loss cfg
    flags :=
      { c.flags with mismatch := r.mismatch c.channel, collision := r.collision cfg } }

/-- The class of a report by its decoded content (R93). -/
inductive ReportClass where
  | silent | foreign | withdrawing | commissioned | progressing
  deriving DecidableEq, Repr

/-- R93: the class of a decoded slot and state, silent where the report gives none to act on. -/
def reportClass (content : Option (Channel × ToneState)) (channel : Channel) : ReportClass :=
  match content with
  | none => .silent
  | some (slot, state) =>
    if slot = channel then
      match state with
      | .withdraw => .withdrawing
      | .commissioned => .commissioned
      | .probe | .ramp | .settled => .progressing
    else .foreign

/-- R66, R87: a head acts on a DECODED report; loss is judged before it (log entry 7). -/
def WatchReport.headClass (r : WatchReport) (channel : Channel) : ReportClass :=
  reportClass r.said channel

/-- R93: a follower acts on the decoded content of a present report only. -/
def WatchReport.followerClass (r : WatchReport) (channel : Channel) : ReportClass :=
  reportClass r.heard channel

namespace State

/-! ## ARMED (R74, R95) -/

/-- R74, R95: a report taken in ARMED. A HELD ANSWER posts nothing. -/
def watchArmed (i : Slot) (c : Context) (r : WatchReport) (s : State) : State :=
  if c.answerHold = some .held then s
  else if !r.present || r.mismatch c.channel || r.collision s.cfg then s.removeRequest i
  else if r.opens c.channel s.cfg then s.postOpen i (r.latest.getD 0)
  else s

/-! ## Open states -/

/-- R76, R98, R99: what COLLISION's change does in RAMPING. -/
def watchCollision (i : Slot) (was now : Bool) (s : State) : State :=
  if now then s.removeRequest i
  else if was then s.postingTest i false
  else s

/-- R73, R85, R87: a report taken by a head in an open state; `was` is COLLISION before it. At a report that
clears COLLISION and also brings a loss, a conflict or a withdrawal, those act and no posting test is made
(R76; log entry 31). -/
def watchHead (i : Slot) (c : Context) (r : WatchReport) (was : Bool) (s : State) : State :=
  if r.loss s.cfg then s.lose i
  else
    match r.headClass c.channel with
    | .foreign => s.withdrawFully i .conflict
    | .withdrawing => s.withdrawFully i .upstreamWithdrawn
    | .silent | .commissioned | .progressing =>
      match c.state with
      | .ramping => s.watchCollision i was (r.collision s.cfg)
      | .opening | .settled | .following | .armed | .adopting | .commissioned | .lost | .withdrawing
      | .ended => s

/-- R103, R104: a commissioned report taken by a follower in an open state. In SETTLED and with no step
in flight it commissions; otherwise its commission heard mark is set. -/
def hearCommissioned (i : Slot) (c : Context) (s : State) : State :=
  if c.step.isNone then s.commissionWith i id
  else (s.modCtx i fun c => { c with heard := true }).removeRequest i

/-- R94, R97 to R99: a report that is neither loss nor foreign, withdrawing or commissioned in effect,
taken by a follower in FOLLOWING or RAMPING. -/
def watchProgress (i : Slot) (c : Context) (r : WatchReport) (s : State) : State :=
  match c.state with
  | .following => if r.ready c.channel s.cfg then s.enterRamping i false else s
  | .ramping =>
    if !r.ready c.channel s.cfg || r.collision s.cfg then s.removeRequest i else s.postingTest i false
  | .opening | .settled | .armed | .adopting | .commissioned | .lost | .withdrawing | .ended => s

/-- R94: UPSTREAM_UNSTABLE is evaluated in FOLLOWING and RAMPING (log entry 9). -/
def noteReady (i : Slot) (c : Context) (r : WatchReport) (s : State) : State :=
  match c.state with
  | .following | .ramping =>
    s.modFlags i fun f => { f with upstreamUnstable := !r.ready c.channel s.cfg }
  | .opening | .settled | .armed | .adopting | .commissioned | .lost | .withdrawing | .ended => s

/-- R93, R94, R103 to R108: a report taken by a follower in an open state. -/
def watchFollower (i : Slot) (c : Context) (r : WatchReport) (s : State) : State :=
  let s1 := s.noteReady i c r
  if r.loss s.cfg then s1.lose i
  else
    match r.followerClass c.channel with
    | .foreign => s1.withdrawFully i .conflict
    | .withdrawing => s1.withdrawFully i .upstreamWithdrawn
    | .commissioned => s1.hearCommissioned i c
    | .silent | .progressing => s1.watchProgress i c r

/-! ## WITHDRAWING (R90, R111) -/

/-- R90, R111: a report in loss brings the URGENT BLOCK, at once or after the step in flight (log
entry 15). -/
def watchWithdrawing (i : Slot) (c : Context) (r : WatchReport) (s : State) : State :=
  if r.loss s.cfg then
    if c.step.isNone then s.postBlock i else s.modCtx i fun c => { c with mustBlock := true }
  else s

/-! ## A report (R66) -/

/-- R73 to R112: what a context does at a watch report, by its state; `c` is its record before the
report. -/
def actOnReport (i : Slot) (c : Context) (r : WatchReport) (s : State) : State :=
  match c.state with
  | .armed => s.watchArmed i c r
  | .opening | .following | .ramping | .settled =>
    if c.head then s.watchHead i c r c.flags.collision else s.watchFollower i c r
  | .withdrawing => s.watchWithdrawing i c r
  | .lost | .adopting | .commissioned | .ended => s

/-- R66, R73, R93: a watching context takes its watch report. -/
def takeWatch (i : Slot) (s : State) : State :=
  match s.ctx i with
  | none => s
  | some c =>
    let r := watchReport (s.tap c.watchTap).census c.tone
    ((s.modCtx i fun c => c.note r s.cfg).actOnReport i c r).arbitrate

end State

/-! ## Measurements (R67) -/

/-- R67: the visit in progress began after the last DONE applied to the context; a record that has had
none applied has no fresh measurement. -/
def Context.visitIsLater (c : Context) (visits : Nat) : Bool :=
  match c.doneAt with
  | none => false
  | some n => decide (n < visits)

/-- R67: the measurement of the visit that ends is fresh for the context. -/
def Context.isFresh (c : Context) (visits : Nat) : Bool := c.step.isNone && c.visitIsLater visits

/-- R80: the fresh measurement `p` counts as drift. -/
def Context.drifts (c : Context) (s : State) (p : Nat) (stable : Bool) : Bool :=
  stable &&
    ((belowWidened p (c.target s) c.tTol && !c.flags.short) ||
      (aboveWidened p (c.target s) c.tTol && !c.flags.excess))

namespace State

/-- R80, R101: the drift watch. -/
def watchDrift (i : Slot) (c : Context) (p : Nat) (stable : Bool) (s : State) : State :=
  if c.drifts s p stable then
    if 3 ≤ c.drift.getD 0 + 1 then s.enterRamping i true
    else s.modCtx i fun x => { x with drift := x.drift.map (· + 1) }
  else s.modCtx i fun x => { x with drift := x.drift.map fun _ => 0 }

/-- R76, R80, R89, R98, R110: what a context does at a fresh measurement, by its state. -/
def actOnMeasure (i : Slot) (c : Context) (p : Nat) (stable : Bool) (s : State) : State :=
  match c.state with
  | .ramping => s.postingTest i true
  | .settled => s.watchDrift i c p stable
  | .withdrawing => s.postWithdrawal i
  | .opening | .following | .lost | .armed | .adopting | .commissioned | .ended => s

/-- R67: a measuring context takes its measurement, which it applies when it is fresh (R6). -/
def takeMeasure (i : Slot) (s : State) : State :=
  match s.ctx i with
  | none => s
  | some c =>
    if c.isFresh s.tae.visits then
      let census := (s.tap c.measureTap).census
      let p := measuredPower census c.tone
      ((s.modCtx i fun c => { c with lastPower := some p, freshHeld := true }).actOnMeasure i c p
        (stableReport census c.tone)).arbitrate
    else s

/-- R66 to R68: the context of a slot receives what the visit of a tap gives it. -/
def receive (t : Tap) (i : Slot) (s : State) : State :=
  match s.ctx i with
  | none => s
  | some c =>
    if c.listening && c.watchTap == t then s.takeWatch i
    else if c.measuring && c.measureTap == t then s.takeMeasure i
    else s

/-- R68: the contexts receive the report of a visit, in ascending slot order (log entry 5). -/
def receiveAll (t : Tap) (s : State) : State := allSlots.foldl (fun s i => s.receive t i) s

end State

end Sys2Proof.Machine
end

