-- ==== Sys2Proof/Machine/Links.lean ====
section
/-! DEFINITION. Replies, timeouts and faults of the switch links (10_switch_links.md, 10.4 to 10.7), and
what a reply does to each record (R75, R77, R86 to R90, R96, R100, R104, R107, R110, R111, R22). -/

namespace Sys2Proof.Machine

/-! ## Matching (R169, R191) -/

/-- R169: the link holds a command and the reply carries its number. -/
def Link.matches (l : Link) (number : Byte) : Bool := l.command.isSome && l.number == number

/-- R191: the value byte of a DONE by the kind of the command it answers (log entry 25): the attenuation
read, or a value outside those the format gives. -/
def doneValue (kind : CommandKind) (value : Byte) : Option Atten :=
  match kind with
  | .read =>
    if value.toNat ≤ maxAtten then some (.tenths value.toNat)
    else if value.toNat = 255 then some .blocked
    else none
  | .set => if value.toNat = 0 then some .blocked else none
  | .block => if value.toNat = 0 then some .blocked else none

/-- R5: the attenuation a DONE writes for an entry; `read` is what the value byte of a READ gives. -/
def CommandEntry.written (e : CommandEntry) (read : Atten) : Atten :=
  match e.kind with
  | .openPort | .step | .groupStep | .withdrawStep => .tenths e.atten
  | .block => .blocked
  | .read => read

namespace State

/-- R172: a reply for a record that no longer waits. -/
def discardReply (i : Slot) (s : State) : State := s.modFlags i fun f => { f with lateReply := true }

/-! ## DONE (R170) -/

/-- R170: the attenuation is written and the step in flight clears; the fresh measurement goes (R67,
R76). -/
def applyDone (i : Slot) (a : Atten) (s : State) : State :=
  (s.modCtx i fun c =>
    { c with atten := a, step := none, freshHeld := false, doneAt := some s.tae.visits }).syncHolds i

/-- R22: the DONE of an ADOPT's READ. -/
def doneRead (i : Slot) (a : Atten) (s : State) : State :=
  match s.ctx i with
  | none => s
  | some c =>
    if c.state = .adopting then
      match a with
      | .tenths _ =>
        s.commissionWith i fun c => { c with elapsed := 0, flags := { c.flags with adopted := true } }
      | .blocked => s.endFully i .adoptFailed
      | .unknown => s.endFully i .adoptFailed
    else s

/-- R86, R90, R107, R111: the DONE of a BLOCK. -/
def doneBlock (i : Slot) (c : Context) (s : State) : State :=
  match c.state with
  | .lost => s.changeState i .armed id
  | .withdrawing => s.endFully i (c.cause.getD .cancelled)
  | .armed | .adopting | .opening | .following | .ramping | .settled | .commissioned | .ended => s

/-- R75, R77, R86, R88, R96, R100, R104, R107, R148: the DONE of an OPEN_PORT or of a leveling step. -/
def doneStep (i : Slot) (c : Context) (s : State) : State :=
  match c.state with
  | .opening =>
    if c.heard then s.commissionWith i id
    else if c.head then s.enterRamping i false
    else s.enterFollowing i
  | .following | .ramping => if c.heard then s.commissionWith i id else s
  | .lost => s.postBlock i
  | .withdrawing => s.postWithdrawal i
  | .armed | .adopting | .settled | .commissioned | .ended => s

/-- R89, R110: the DONE of a withdraw step; the next request waits for a fresh measurement unless it is
an URGENT BLOCK called for meanwhile (R90, R111). -/
def doneWithdrawStep (i : Slot) (s : State) : State :=
  match s.ctx i with
  | none => s
  | some c => if c.blocksFirst then s.postBlock i else s

/-- R170: the context goes on by its own state after its DONE; `c` is its record before it. -/
def afterDone (i : Slot) (c : Context) (kind : StepKind) (a : Atten) (s : State) : State :=
  match kind with
  | .read => s.doneRead i a
  | .block => s.doneBlock i c
  | .openPort | .step | .groupStep => s.doneStep i c
  | .withdrawStep => s.doneWithdrawStep i

/-- R170, R172: the DONE taken by the record of one entry. -/
def doneEntry (e : CommandEntry) (read : Atten) (s : State) : State :=
  match e.slot with
  | none => s
  | some i =>
    match s.ctx i with
    | none => s
    | some c =>
      if c.step.isSome then
        (s.applyDone i (e.written read)).afterDone i c e.kind (e.written read)
      else s.discardReply i

/-- R152: what the DONE of one entry adds to E. -/
def entryChange (s : State) (e : CommandEntry) : Int :=
  match e.slot.bind s.ctx with
  | none => 0
  | some c =>
    if c.isTail then 0
    else
      match e.kind with
      | .openPort => e.charge
      | .step | .groupStep =>
        match e.direction with
        | some .up => -e.charge
        | some .down => e.charge
        | none => 0
      | .withdrawStep => -e.charge
      | .block => -(c.lastPower.getD 0 : Nat)
      | .read => 0

/-- R55, R170: the measure taps of the records that still exist. -/
def measureTaps (s : State) (entries : List CommandEntry) : List Tap :=
  entries.filterMap fun e => (e.slot.bind s.ctx).map Context.measureTap

/-! ## REFUSE (R171) -/

/-- R171: the switch reason is written and the step in flight clears; a refused BLOCK leaves UNKNOWN. -/
def applyRefuse (i : Slot) (kind : StepKind) (reason : Nat) (s : State) : State :=
  (s.modCtx i fun c =>
    { c with
      switchReason := some reason, step := none
      atten :=
        match kind with
        | .block => .unknown
        | .openPort | .step | .groupStep | .withdrawStep | .read => c.atten }).syncHolds i

/-- R88 to R90, R110: a refusal in WITHDRAWING of a setting on the port. A refused withdraw step changes
the cause; either way the next request is an URGENT BLOCK. -/
def refusedWithdrawing (i : Slot) (kind : StepKind) (s : State) : State :=
  let s1 :=
    match kind with
    | .withdrawStep => s.modCtx i fun c => { c with cause := c.cause.map fun _ => .switchRefused }
    | .openPort | .step | .groupStep | .block | .read => s
  s1.postBlock i

/-- R10, R22, R75, R77, R86, R88 to R90, R96, R100, R104, R107, R110, R111, R149: the context acts by its
own rules for a refusal; `c` is its record before it. -/
def afterRefuse (i : Slot) (c : Context) (kind : StepKind) (s : State) : State :=
  match kind with
  | .read => if c.state = .adopting then s.endFully i .adoptFailed else s
  | .block =>
    if c.state = .lost ∨ c.state = .withdrawing then s.endFully i .switchRefused else s
  | .openPort | .step | .groupStep | .withdrawStep =>
    match c.state with
    | .opening | .following | .ramping | .settled | .lost => s.withdrawFully i .switchRefused
    | .withdrawing => s.refusedWithdrawing i kind
    | .armed | .adopting | .commissioned | .ended => s

/-- R171, R172: the REFUSE taken by the record of one entry. -/
def refuseEntry (e : CommandEntry) (reason : Nat) (s : State) : State :=
  match e.slot with
  | none => s
  | some i =>
    match s.ctx i with
    | none => s
    | some c =>
      if c.step.isSome then (s.applyRefuse i e.kind reason).afterRefuse i c e.kind
      else s.discardReply i

/-! ## The link (R170, R171, R178) -/

/-- R178: in RESTARTING the steps in flight a command carried clear, and nothing else is written. -/
def clearSteps (entries : List CommandEntry) (s : State) : State :=
  entries.foldl
    (fun s e =>
      match e.slot with
      | none => s
      | some i => s.modCtx i fun c => { c with step := none }) s

/-- R170, R171, R178: the link is without a command, in IDLE. -/
def quieten (d : Degree) (s : State) : State :=
  (s.modLink d fun l =>
    { l with state := .idle, command := none, timer := none, accepted := false, retry := false }).syncLink d

/-- R170, R171: the command is complete; LINK_RECOVERED when the retry mark was yes. -/
def completeCommand (d : Degree) (s : State) : State :=
  (if (s.link d).retry then (s.quieten d).markLink d fun f => { f with recovered := true }
    else s.quieten d).arbitrate

/-- R170: a matched DONE applied in RUN. Serving the records frees none of them and changes no role and
no measured power, so the expected change and the taps are those of the records as the DONE finds
them. -/
def doneInRun (d : Degree) (entries : List CommandEntry) (read : Atten) (s : State) : State :=
  let s1 := entries.foldl (fun s e => s.doneEntry e read) s
  let s2 := s1.addExpected d (entries.map s.entryChange).sum
  let s3 := (s.measureTaps entries).foldl (fun s t => s.enqueue t) s2
  s3.completeCommand d

/-- R171: a matched REFUSE applied in RUN. -/
def refuseInRun (d : Degree) (entries : List CommandEntry) (reason : Nat) (s : State) : State :=
  let s1 := entries.foldl (fun s e => s.refuseEntry e reason) s
  (s1.modLink d fun l => { l with lastRefusal := some reason }).completeCommand d

/-- R178: a command completed or dropped while the part is RESTARTING. -/
def dropCommand (d : Degree) (s : State) : State :=
  match (s.link d).command with
  | none => s
  | some cmd => (s.clearSteps cmd.entries).quieten d

/-- R169, R170, R178: a DONE arrives. One that is not matched, or whose value the format does not give,
is discarded. -/
def takeDone (d : Degree) (number value : Byte) (s : State) : State :=
  match (s.link d).command with
  | none => s
  | some cmd =>
    match doneValue cmd.kind value with
    | none => s
    | some read =>
      if (s.link d).matches number then
        if s.part = .run then s.doneInRun d cmd.entries read else s.dropCommand d
      else s

/-- R169, R171, R178: a REFUSE arrives. While the part is RESTARTING it still writes last refusal (log
entry 26). -/
def takeRefuse (d : Degree) (number reason : Byte) (s : State) : State :=
  match (s.link d).command with
  | none => s
  | some cmd =>
    if (s.link d).matches number && decide (reason.toNat ≤ 15) then
      if s.part = .run then s.refuseInRun d cmd.entries reason.toNat
      else (s.modLink d fun l => { l with lastRefusal := some reason.toNat }).dropCommand d
    else s

/-- R169: a matched ACCEPT. -/
def takeAccept (d : Degree) (number : Byte) (s : State) : State :=
  if (s.link d).matches number then s.modLink d fun l => { l with accepted := true } else s

/-! ## Timeout, resend and fault (R173 to R175) -/

/-- R173, R175: the command is sent again with its number. -/
def resend (d : Degree) (s : State) : State :=
  (s.modLink d fun l =>
    { l with state := .retrying, timer := some 0, sendings := l.sendings + 1 }).syncLink d

/-- R174: entry to FAULTED. -/
def faultLink (d : Degree) (s : State) : State :=
  ((s.modLink d fun l => { l with state := .faulted, timer := none, retry := true }).markLink d
    fun f => { f with fault := true }).syncLink d

/-- R173, R178: the response timer has reached T_resp. -/
def timeOut (d : Degree) (s : State) : State :=
  if s.part = .restarting then s.dropCommand d
  else
    match (s.link d).state with
    | .busy => s.resend d
    | .retrying => s.faultLink d
    | .absent | .idle | .faulted => s

end State

end Sys2Proof.Machine
end

