-- ==== Sys2Proof/Machine/Responses.lean ====
section
/-! DEFINITION. The payloads of the responses (R25, R47, R69, R140, R159, R176, R183, R187 to R189, in the
layout of R193) and the response frame (R192). -/

namespace Sys2Proof.Machine

/-- A code that may be absent. -/
def optCode {α : Type} (code : α → Nat) (v : Option α) : List Byte := opt16 (v.map code)

/-- A value with its SATURATED mark (R193; log entry 23 for an absent one). -/
def readingField (r : Option Reading) : List Byte :=
  opt32 (r.map (·.value)) ++ flag16 (r.any (·.saturated))

/-! ## The frame -/

/-- R192: the response frame. -/
def responseFrame (status : Status) (part : PartState) (payload : List Byte) : List Byte :=
  [BitVec.ofNat 8 status.code, BitVec.ofNat 8 part.code] ++ u16 payload.length ++ payload

/-! ## CONFIGURE -/

/-- R183, R193: the values of one degree. -/
def DegreeConfig.values (c : DegreeConfig) : List Nat :=
  [c.present.toNat, c.launch, c.dropTarget, c.fraction, c.floor, c.excursionLevel, c.tResp]

/-- R183: the nine global values in their order. -/
def PartConfig.globals (c : PartConfig) : List Nat :=
  [c.presence, c.dwell, c.lossCount, c.collisionCount, c.stabilityLevel, c.stabilityCount,
    c.guardExit, c.window, c.linger]

/-- R193: the configuration in the fields and order of the command. -/
def PartConfig.payload (c : PartConfig) : List Byte :=
  payload16 ((c.degrees.toList.flatMap DegreeConfig.values) ++ c.globals)

/-! ## READ_CONTEXT -/

/-- R193: the parts of a step in flight. -/
def stepPayload (step : Option StepInFlight) : List Byte :=
  optCode StepKind.code (step.map (·.kind)) ++
    optCode Direction.code (step.bind (·.direction)) ++
    opt16 (step.bind (·.size)) ++ opt16 (step.bind (·.commanded)) ++
    opt32 (step.map (·.charge))

/-- R47: the keyer's present condition, absent for a context with no keyer. -/
def keyerPayload (k : Option Keyer) : List Byte :=
  optCode KeyerOutput.code (k.map (·.output)) ++
    optCode ToneState.code ((k.bind (·.active)).map (·.state)) ++
    optCode ToneState.code ((k.bind (·.staged)).map (·.state)) ++
    opt16 (k.bind fun k => if k.output = .linger then some k.lingerCount else none)

/-- R25, R193: the fields of a record that is not IDLE, after the change flag. -/
def Context.payload (c : Context) (k : Option Keyer) : List Byte :=
  u16 c.role.code ++ u16 c.tone.val ++ u16 c.channel.val ++
    opt16 (c.ingress.map (·.val)) ++ opt16 (c.egress.map (·.val)) ++
    u16 c.priority.code ++ opt16 c.group ++ opt16 c.targetOverride ++
    u16 c.sNom ++ u16 c.tTol ++ u16 c.deadline ++ opt16 (c.partner.map (·.val)) ++
    optCode AnswerHold.code c.answerHold ++ u32 c.elapsed ++ flag16 c.frozen ++
    u16 c.atten.code ++ opt16 (c.keyer.map (·.val)) ++ opt32 c.lastPower ++
    stepPayload c.step ++ set16 c.flags.members ++ opt16 c.switchReason ++
    optCode Ending.code c.cause ++ optCode Ending.code c.outcome ++
    opt16 (c.portClosed.map (·.toNat)) ++ keyerPayload k ++ opt16 c.drift ++
    flag16 c.heard ++ flag16 c.groupEntry

/-- R25. -/
def State.contextPayload (s : State) (i : Slot) : List Byte :=
  match s.ctx i with
  | none => u16 i.val ++ u16 0 ++ flag16 s.events.change[i]
  | some c =>
    u16 i.val ++ u16 c.state.code ++ flag16 s.events.change[i] ++ c.payload (c.keyer.map s.keyer)

/-! ## READ_CENSUS -/

/-- R69, R193: one entry with its watched mark. -/
def CensusEntry.payload (e : CensusEntry) (watched : Bool) : List Byte :=
  u16 e.tone.val ++ u32 e.latest ++ u32 e.prior ++
    opt16 (e.decoded.map (·.1.val)) ++ optCode ToneState.code (e.decoded.map (·.2)) ++
    u16 (outcomeCode e.lastDecoded) ++ u16 e.presence ++ u16 e.absence ++ u16 e.undecoded ++
    u16 e.stable ++ flag16 watched

/-- R69: a tap's position in the priority visit queue, counted from 1 at the head. -/
def queuePosition (t : Tap) : List Tap → Option Nat
  | [] => none
  | x :: xs => if x = t then some 1 else (queuePosition t xs).map (· + 1)

/-- R69. -/
def State.censusPayload (s : State) (t : Tap) (start count : Nat) : List Byte :=
  let listed := (s.tap t).census.filter fun e => decide (start ≤ e.tone.val)
  let returned := listed.take (min count 32)
  u16 t.val ++ readingField (s.tap t).latest ++ readingField (s.tap t).prior ++
    u16 (s.tap t).census.length ++ flag16 (s.tae.visit == some t) ++
    opt16 (queuePosition t s.tae.queue) ++ u16 (listed.length - returned.length) ++
    u16 returned.length ++ returned.flatMap fun e => e.payload (s.watched t e.tone)

/-! ## READ_DEGREE -/

/-- R189: the configuration of a degree; the values of a degree that is not present are absent. -/
def DegreeConfig.payload (c : DegreeConfig) : List Byte :=
  if c.present then payload16 c.values else payload16 (0 :: List.replicate 6 absent16)

/-- R140, R193: NONE 0, LOADED 1, UNLOADED 2. -/
def windowKindCode (w : Option Window) : Nat :=
  match w with
  | none => 0
  | some w => if w.allowance.isSome then 1 else 2

/-- R140, R193. -/
def Budget.payload (b : Budget) : List Byte :=
  u16 (windowKindCode b.window) ++ opt16 (b.window.map (·.framesLeft)) ++
    optCode StartCause.code (b.window.map (·.cause)) ++ opt32 (b.window.map (·.startPower)) ++
    opt32 ((b.window.bind (·.allowance)).map (·.budget)) ++
    opt32 ((b.window.bind (·.allowance)).map (·.remaining))

/-- R193: last D after the field that says whether it is present; a D outside the 32-bit field is a free
value (log entry 10). -/
def lastDField (d : Option Int) : List Byte :=
  match d with
  | none => u16 0 ++ s32 0
  | some d =>
    u16 1 ++ (if -2147483648 ≤ d ∧ d ≤ 2147483647 then s32 d else bits32 (Config.wideLastD d))

/-- R155, R159: the guard state, its causes and the clean count. -/
def Guard.causes (g : Guard) : List Byte :=
  flag16 (g.auto || g.forced) ++ flag16 g.auto ++ flag16 g.forced ++ u16 g.clean

/-- R159, R193. -/
def Guard.payload (g : Guard) : List Byte :=
  g.causes ++ s32 g.expected ++ u16 g.lastTest.code ++ lastDField g.lastD

/-- R176: how many requests of a level carry a hold. -/
def holdCount (requests : List Request) (level : Level) (hold : Request → Bool) : Nat :=
  (requests.filter fun r => r.level == level && hold r).length

/-- R176: the parts of the command, absent when there is none (R193; log entry 27). -/
def commandPayload (l : Link) : List Byte :=
  optCode CommandKind.code (l.command.map (·.kind)) ++
    optCode Side.code (l.command.map (·.side)) ++
    opt16 (l.command.map fun _ => l.number.toNat) ++
    opt16 (l.command.map (·.entries.length)) ++
    ((List.range 16).flatMap fun n =>
      opt16 ((l.command.bind fun c => (c.entries[n]?).bind (·.slot)).map (·.val))) ++
    opt16 (l.command.map fun _ => l.accepted.toNat) ++
    opt16 (l.command.map fun _ => l.retry.toNat)

/-- R176, R193. -/
def Link.payload (l : Link) : List Byte :=
  u16 l.state.code ++ u16 l.requests.length ++
    ([Level.urgent, Level.high, Level.low].flatMap fun level =>
      u16 (holdCount l.requests level (·.budgetHold)) ++
        u16 (holdCount l.requests level (·.guardHold))) ++
    commandPayload l ++ opt16 l.timer ++ opt16 l.lastRefusal

/-- R189. -/
def State.degreePayload (s : State) (d : Degree) : List Byte :=
  u16 d.val ++ (s.degreeCfg d).payload ++ (s.budget d).payload ++ (s.guard d).payload ++
    (s.link d).payload ++ set16 s.events.degree[d].members ++ set16 s.events.link[d].members ++
    readingField (s.tap (lineOut d)).latest ++ readingField (s.tap (lineOut d)).prior

/-! ## TAKE_EVENTS and SET_ATTN_MASK -/

/-- R187: the slots whose change flag is pending, in ascending order. -/
def State.changedSlots (s : State) : List Slot := allSlots.filter fun i => s.events.change[i]

/-- R187, R193. -/
def State.eventsPayload (s : State) : List Byte :=
  set16 s.pendingClasses.members ++ u16 s.changedSlots.length ++
    (s.changedSlots.flatMap fun i => u16 i.val) ++
    (allDegrees.flatMap fun d => set16 s.events.degree[d].members) ++
    (allDegrees.flatMap fun d => set16 s.events.link[d].members)

/-- R188, R193: the new enable set and the pending classes. -/
def State.maskPayload (s : State) : List Byte :=
  set16 s.mask.members ++ set16 s.pendingClasses.members

end Sys2Proof.Machine
end

