-- ==== Sys2Proof/Machine/Records.lean ====
section
/-! DEFINITION. Opening, adopting and freeing a record (R13 to R21, R24): the checks in their order, the
binding of partners and keyers, and the record that is written. -/

namespace Sys2Proof.Machine

namespace State

/-! ## A record that goes (R13, R17, R24, R172) -/

/-- R17: the binding of a pair ends; the survivor's partner field becomes absent. -/
def unbind (i : Slot) (s : State) : State :=
  match (s.ctx i).bind (·.partner) with
  | none => s
  | some p => s.modCtx p fun c => { c with partner := if c.partner = some i then none else c.partner }

/-- R172: the entries of a record's link that carry it are marked as carrying none. -/
def forgetEntries (i : Slot) (s : State) : State :=
  match s.ctx i with
  | none => s
  | some c =>
    s.modLink c.link fun l =>
      { l with command := l.command.map fun cmd =>
        { cmd with entries := cmd.entries.map fun e =>
          { e with slot := if e.slot = some i then none else e.slot } } }

/-- R13: an accepted OPEN or ADOPT discards the slot's ENDED record and clears its change flag. -/
def discardRecord (i : Slot) (s : State) : State :=
  match s.ctx i with
  | none => s
  | some _ => (((s.unbind i).forgetEntries i).setRecord i none).clearChange i

/-- R24: the record of a slot returns to IDLE. -/
def freeRecord (i : Slot) (s : State) : State :=
  match s.ctx i with
  | none => s
  | some c =>
    let s1 := ((((s.releaseKeyer i).unbind i).forgetEntries i).putRecord i none)
    if c.live then s1.evaluateGroupOf c else s1

/-! ## The checks (R14 to R16, R18) -/

/-- R14: a degree that the role uses. -/
def usedDegree (s : State) (v : Nat) : Option Degree :=
  (index? 8 v).bind fun d => if s.present d then some d else none

/-- R14, R17: a group number that a new context on an egress degree may carry. -/
def groupAdmits (s : State) (g : Nat) (egress : Degree) : Bool :=
  decide (1 ≤ g) && decide (g ≤ 15) &&
    (allSlots.all fun i => (s.ctx i).all fun c => !c.memberOf g || c.egress == some egress) &&
    decide ((allSlots.filter fun i => (s.ctx i).any fun c => c.memberOf g).length < 16)

/-- R14: the degrees and the group of a new record, by its role; none when a check of R14 fails. -/
def roleFields (s : State) (role : Role) (f : OpenFields) :
    Option (Option Degree × Option Degree × Option Nat) :=
  let grouped (e : Degree) (ingress : Option Degree) :
      Option (Option Degree × Option Degree × Option Nat) :=
    match optionalField f.group with
    | none => some (ingress, some e, none)
    | some g => if s.groupAdmits g e then some (ingress, some e, some g) else none
  match role with
  | .origin => (s.usedDegree f.egress).bind fun e => grouped e none
  | .answer => (s.usedDegree f.egress).bind fun e => grouped e none
  | .transit =>
    (s.usedDegree f.egress).bind fun e =>
      (s.usedDegree f.ingress).bind fun i => if i = e then none else grouped e (some i)
  | .tail =>
    (s.usedDegree f.ingress).bind fun i =>
      match optionalField f.group with
      | none => some (some i, none, none)
      | some _ => none

/-- R14, R19, R20: the new record in ARMED, with its tuning fields clamped and no partner or keyer yet;
none when a check of R14 fails. -/
def newRecord (s : State) (f : OpenFields) : Option Context :=
  (Role.ofCode f.role).bind fun role =>
    (index? 256 f.tone).bind fun tone =>
      (index? 128 f.channel).bind fun channel =>
        (Priority.ofCode f.priority).bind fun priority =>
          (s.roleFields role f).map fun (ingress, egress, group) =>
            { state := .armed, role := role, tone := tone, channel := channel
              ingress := ingress, egress := egress, priority := priority, group := group
              targetOverride := (optionalField f.targetOverride).map (clamp 1 10000)
              sNom := clamp 1 20 f.sNom, tTol := clamp 1 10 f.tTol
              deadline := clamp 10 7200 f.deadline
              partner := none, answerHold := if role = .answer then some .held else none
              elapsed := 0, frozen := false, atten := .blocked, keyer := none
              lastPower := none, step := none, flags := CondFlags.clear, switchReason := none
              cause := none, outcome := none, portClosed := none, drift := none
              heard := false, groupEntry := false, freshHeld := false, doneAt := none
              inLoss := false, mustBlock := false }

/-- R16: a role may name a partner of a role. -/
def rolesPair (new named : Role) : Bool :=
  match new with
  | .answer => named == .tail
  | .origin => named == .tail
  | .tail => named == .origin || named == .answer
  | .transit => false

/-- R16: the partner that a new record names, `some none` when it names none and may; none when the
partner check fails. -/
def partnerOf (s : State) (c : Context) (f : OpenFields) : Option (Option Slot) :=
  match optionalField f.partner with
  | none => if c.role = .answer then none else some none
  | some v =>
    (index? 64 v).bind fun p =>
      (s.ctx p).bind fun named =>
        if rolesPair c.role named.role && named.live && named.state != .withdrawing &&
            named.tone == c.tone && named.partner.isNone
        then some (some p) else none

/-- R15: another live record owns the port. -/
def portTaken (s : State) (c : Context) : Bool :=
  allSlots.any fun i => (s.ctx i).any fun x => x.live && x.port == c.port

/-- R15: another live record holds the tone claim. -/
def toneTaken (s : State) (c : Context) : Bool :=
  allSlots.any fun i => (s.ctx i).any fun x => x.live && x.toneClaim == c.toneClaim

/-- R13, checks 1 and 2: the slot named, IDLE or ENDED. -/
def openSlot (s : State) (v : Nat) : Except Status Slot :=
  match index? 64 v with
  | none => .error .badField
  | some i => if (s.ctx i).any (·.live) then .error .busy else .ok i

/-- R13, checks 3 to 6, against the table with the slot's ENDED record discarded: the record to be written
with its partner. -/
def claimRecord (t : State) (f : OpenFields) : Except Status Context :=
  match t.newRecord f with
  | none => .error .badField
  | some c =>
    match t.partnerOf c f with
    | none => .error .partnerInvalid
    | some p =>
      if t.portTaken c then .error .portTaken
      else if t.toneTaken c then .error .toneTaken
      else .ok { c with partner := p }

/-! ## The record written (R16, R18, R19, R21) -/

/-- R16: the binding is mutual. -/
def bindPartner (i : Slot) (p : Option Slot) (s : State) : State :=
  match p with
  | none => s
  | some p => s.modCtx p fun c => { c with partner := some i }

/-- R18, R38, R42: a keyer is bound to a new head, and sends PROBE unless the ANSWER is HELD. -/
def bindKeyer (i : Slot) (k : KeyerNo) (s : State) : State :=
  let s1 := (s.modKeyer k fun x => { x with bound := some i }).modCtx i fun c => { c with keyer := some k }
  if (s1.ctx i).any (·.answerHold == some .held) then s1 else s1.startKeyer i

/-- R19: the answer hold of an ANSWER that is opened. -/
def openHold (t : State) (c : Context) : Option AnswerHold :=
  if c.role = .answer then
    if t.partnerState c = some .settled ∨ t.partnerState c = some .commissioned then some .released
    else some .held
  else none

/-- R13, R18, R19: OPEN. -/
def openRecord (payload : List Byte) (s : State) : Except Status (List Byte × State) :=
  let f := OpenFields.ofPayload payload
  match s.openSlot f.slot with
  | .error st => .error st
  | .ok i =>
    let t := s.discardRecord i
    match t.claimRecord f with
    | .error st => .error st
    | .ok c =>
      let new := { c with answerHold := t.openHold c }
      if c.head then
        match t.freeKeyer? with
        | none => .error .noKeyer
        | some k => .ok ([], ((t.bindPartner i c.partner).putRecord i (some new)).bindKeyer i k)
      else .ok ([], (t.bindPartner i c.partner).putRecord i (some new))

/-- R21: ADOPT. -/
def adoptRecord (payload : List Byte) (s : State) : Except Status (List Byte × State) :=
  let f := OpenFields.ofPayload payload
  match s.openSlot f.slot with
  | .error st => .error st
  | .ok i =>
    let t := s.discardRecord i
    match t.claimRecord f with
    | .error st => .error st
    | .ok c =>
      let new :=
        { c with
          state := .adopting, atten := .unknown
          answerHold := if c.role = .answer then some .released else none }
      .ok ([], (((t.bindPartner i c.partner).putRecord i (some new)).postRead i).arbitrate)

/-! ## CANCEL and FREE (R23, R24) -/

/-- R23. -/
def cancelRecord (payload : List Byte) (s : State) : Except Status (List Byte × State) :=
  match index? 64 (fieldAt payload 0) with
  | none => .error .badField
  | some i =>
    match s.ctx i with
    | none => .error .wrongState
    | some c =>
      match c.state with
      | .ended => .error .wrongState
      | .armed | .adopting => .ok ([], s.endFully i .cancelled)
      | .opening | .following | .ramping | .settled | .lost => .ok ([], s.withdrawFully i .cancelled)
      | .commissioned => .ok ([], (s.releaseKeyer i).withdrawFully i .cancelled)
      | .withdrawing => .ok ([], s)

/-- R24. -/
def freeSlot (payload : List Byte) (s : State) : Except Status (List Byte × State) :=
  match index? 64 (fieldAt payload 0) with
  | none => .error .badField
  | some i =>
    match s.ctx i with
    | none => .error .wrongState
    | some c =>
      match c.state with
      | .ended | .commissioned => .ok ([], (s.freeRecord i).arbitrate)
      | .armed | .adopting | .opening | .following | .ramping | .settled | .lost | .withdrawing =>
        .error .wrongState

end State

end Sys2Proof.Machine
end

