-- ==== Sys2Proof/Machine/Resets.lean ====
section
/-! DEFINITION. CONFIGURE completion, RESTART and the return to RUN, and the RESET pin (R28, R29, R48, R49,
R70 to R72, R141, R142, R160, R161, R177, R178, R183 to R185). -/

namespace Sys2Proof.Machine

namespace State

/-- The window each present degree starts at CONFIGURE completion and at the return to RUN (R131). -/
def startWindows (cause : StartCause) (s : State) : State :=
  allDegrees.foldl (fun s d => if s.present d then s.startWindow d cause else s) s

end State

/-! ## CONFIGURE (R183) -/

/-- R183, R192: the configuration of degree `d` in a payload, clamped. -/
def DegreeConfig.ofPayload (payload : List Byte) (d : Degree) : DegreeConfig :=
  let at' (n : Nat) : Nat := fieldAt payload (7 * d.val + n)
  { present := at' 0 != 0
    launch := configured 1 10000 500 (at' 1), dropTarget := configured 1 10000 100 (at' 2)
    fraction := configured 1 255 31 (at' 3), floor := configured 1 10000 50 (at' 4)
    excursionLevel := configured 0 3 1 (at' 5), tResp := configured 50 2000 500 (at' 6) }

/-- R183, R192: the configuration of a payload, clamped. -/
def PartConfig.ofPayload (payload : List Byte) : PartConfig :=
  let at' (n : Nat) : Nat := fieldAt payload (56 + n)
  { degrees := tabulate 8 (DegreeConfig.ofPayload payload)
    presence := configured 1 1000 2 (at' 0), dwell := configured 1 15 2 (at' 1)
    lossCount := configured 1 7 2 (at' 2), collisionCount := configured 1 15 3 (at' 3)
    stabilityLevel := configured 0 3 1 (at' 4), stabilityCount := configured 1 15 3 (at' 5)
    guardExit := configured 1 15 4 (at' 6), window := configured 4 64 8 (at' 7)
    linger := configured 10 600 60 (at' 8) }

namespace State

/-- R177: at CONFIGURE completion and at the return to RUN, the state of each link. -/
def linkPresence (s : State) (d : Degree) : LinkState := if s.present d then .idle else .absent

/-- R183: CONFIGURE completion. -/
def configureWith (cfg : PartConfig) (s : State) : State :=
  let s1 := { s with config := some cfg, part := .run }
  startWindows .configure
    { s1 with links := tabulate 8 fun d => { s1.link d with state := s1.linkPresence d } }

/-- R183: CONFIGURE. -/
def configurePart (payload : List Byte) (s : State) : Except Status (List Byte × State) :=
  let cfg := PartConfig.ofPayload payload
  if allDegrees.any fun d => cfg.degrees[d].present then .ok (cfg.payload, s.configureWith cfg)
  else .error .badField

/-! ## RESTART (R184) -/

/-- R178, R184: every link is without a command. -/
def quiet (s : State) : Bool := allDegrees.all fun d => (s.link d).command.isNone

/-- R177, R178: a link cleared; it keeps its command number and the record of its output. -/
def clearedLink (l : Link) (st : LinkState) : Link :=
  { Link.reset with
    state := st, number := l.number, lastFrame := l.lastFrame, sendings := l.sendings }

/-- R184: the part clears and returns to RUN. -/
def returnToRun (s : State) : State :=
  startWindows .restart
    { s with
      part := .run, mask := Classes.empty, events := Events.clear
      contexts := Vector.replicate 64 none, keyers := Vector.replicate 16 Keyer.free
      tae := Tae.stopped, budgets := Vector.replicate 8 Budget.noWindow
      guards := Vector.replicate 8 Guard.clear
      links := tabulate 8 fun d => clearedLink (s.link d) (s.linkPresence d) }

/-- R178: at acceptance of RESTART a FAULTED link drops its command. -/
def dropFaulted (s : State) : State :=
  allDegrees.foldl (fun s d => if (s.link d).state = .faulted then s.dropCommand d else s) s

/-- R184: RESTART; with every link quiet the return to RUN comes at once. -/
def restartPart (s : State) : Except Status (List Byte × State) :=
  let s1 := dropFaulted ({ s with part := .restarting }.stopScan)
  .ok ([], if s1.quiet then s1.returnToRun else s1)

/-! ## The RESET pin (R185) -/

/-- R28, R48, R70, R71, R141, R160, R177, R180, R185: the RESET pin. The links keep their command number and
the record of their output; the commands that wait outside the part go on waiting. -/
def resetPart (s : State) : State :=
  { State.reset with
    links := tabulate 8 fun d => clearedLink (s.link d) .idle
    pending := s.pending }

end State

end Sys2Proof.Machine
end

