-- ==== Sys2Proof/Machine/Commands.lean ====
section
/-! DEFINITION. The processor's commands (R179, R181, R182): one meaning for each. -/

namespace Sys2Proof.Machine

/-- R179: in which part states a command is taken. -/
inductive Admission where
  | configuring
  | anytime
  | running
  deriving DecidableEq, Repr

/-- R179, R182: the status with which a part state turns a command away; RESTARTING turns every command
away. -/
def Admission.refusal : Admission → PartState → Option Status
  | _, .restarting => some .restarting
  | .configuring, .run => some .alreadyConfigured
  | .configuring, .unconfigured => none
  | .anytime, .unconfigured => none
  | .anytime, .run => none
  | .running, .unconfigured => some .notConfigured
  | .running, .run => none

namespace State

/-- R181: taking a command discards the response the buffer holds, at which ATTN is evaluated in full
(R188; log entry 24). -/
def discardResponse (s : State) : State :=
  match s.buffer with
  | .empty => s
  | .pending _ _ => s.evaluateAttn
  | .ready _ => s.evaluateAttn

/-- R181: the buffer is PENDING with the outcome; a refused command has no payload (R192). -/
def respond (status : Status) (payload : List Byte) (s : State) : State :=
  { s with buffer := .pending status payload }

/-- R182: a complete frame of one of the thirteen commands, checked in the order given. `body` makes the
command's own checks and gives its payload and effect. -/
def answer (admission : Admission) (length : Nat) (payload : List Byte)
    (body : State → Except Status (List Byte × State)) (s : State) : State :=
  let t := s.discardResponse
  match admission.refusal t.part with
  | some status => t.respond status []
  | none =>
    if payload.length = length then
      match body t with
      | .error status => t.respond status []
      | .ok (response, u) => u.respond .ok response
    else t.respond .badField []

/-- R14, R155, R175: a degree that a command names and that is configured present. -/
def namedDegree (s : State) (payload : List Byte) : Option Degree := s.usedDegree (fieldAt payload 0)

/-! ## Bodies -/

/-- R25. -/
def readContextBody (payload : List Byte) (s : State) : Except Status (List Byte × State) :=
  match index? 64 (fieldAt payload 0) with
  | none => .error .badField
  | some i => .ok (s.contextPayload i, s)

/-- R69. -/
def readCensusBody (payload : List Byte) (s : State) : Except Status (List Byte × State) :=
  match index? 32 (fieldAt payload 0) with
  | none => .error .badField
  | some t =>
    if s.scanned t && decide (fieldAt payload 1 ≤ 255) then
      .ok (s.censusPayload t (fieldAt payload 1) (fieldAt payload 2), s)
    else .error .badField

/-- R189. -/
def readDegreeBody (payload : List Byte) (s : State) : Except Status (List Byte × State) :=
  match index? 8 (fieldAt payload 0) with
  | none => .error .badField
  | some d => .ok (s.degreePayload d, s)

/-- R187: the snapshot is cleared; ATTN does not move (R188). -/
def takeEventsBody (s : State) : Except Status (List Byte × State) :=
  .ok (s.eventsPayload, s.setEvents { Events.clear with attn := s.events.attn })

/-- R188: the whole enable set is replaced; ATTN does not move. -/
def setMaskBody (payload : List Byte) (s : State) : Except Status (List Byte × State) :=
  let t := { s with mask :=
    { context := fieldAt payload 0 != 0, degree := fieldAt payload 1 != 0
      link := fieldAt payload 2 != 0 } }
  .ok (t.maskPayload, t)

/-- R155: SET 1 and CLEAR 2 (R192). -/
def forceGuardBody (payload : List Byte) (s : State) : Except Status (List Byte × State) :=
  match s.namedDegree payload with
  | none => .error .badField
  | some d =>
    if fieldAt payload 1 = 1 ∨ fieldAt payload 1 = 2 then
      let g := { s.guard d with forced := fieldAt payload 1 == 1 }
      .ok (g.causes, (s.putGuard d g).arbitrate)
    else .error .badField

/-- R175: the command of a FAULTED link is sent once more; the response carries the link state as the
command leaves it. -/
def linkRetryBody (payload : List Byte) (s : State) : Except Status (List Byte × State) :=
  match s.namedDegree payload with
  | none => .error .badField
  | some d =>
    match (s.link d).state with
    | .faulted => .ok (u16 ((s.resend d).link d).state.code, s.resend d)
    | .absent | .idle | .busy | .retrying => .error .wrongState

end State

open State

/-! ## Meanings -/

/-- CONFIGURE (R183). -/
def execConfigure (payload : List Byte) (s : State) : Host.Outcome State Fault Refusal :=
  .next (s.answer .configuring 130 payload (configurePart payload))

/-- OPEN (R13 to R20). -/
def execOpenContext (payload : List Byte) (s : State) : Host.Outcome State Fault Refusal :=
  .next (s.answer .running 26 payload (openRecord payload))

/-- ADOPT (R21). -/
def execAdopt (payload : List Byte) (s : State) : Host.Outcome State Fault Refusal :=
  .next (s.answer .running 26 payload (adoptRecord payload))

/-- CANCEL (R23). -/
def execCancel (payload : List Byte) (s : State) : Host.Outcome State Fault Refusal :=
  .next (s.answer .running 2 payload (cancelRecord payload))

/-- FREE (R24). -/
def execFree (payload : List Byte) (s : State) : Host.Outcome State Fault Refusal :=
  .next (s.answer .running 2 payload (freeSlot payload))

/-- READ_CONTEXT (R25, R47). -/
def execReadContext (payload : List Byte) (s : State) : Host.Outcome State Fault Refusal :=
  .next (s.answer .running 2 payload (readContextBody payload))

/-- READ_CENSUS (R69). -/
def execReadCensus (payload : List Byte) (s : State) : Host.Outcome State Fault Refusal :=
  .next (s.answer .running 6 payload (readCensusBody payload))

/-- READ_DEGREE (R140, R159, R176, R189). -/
def execReadDegree (payload : List Byte) (s : State) : Host.Outcome State Fault Refusal :=
  .next (s.answer .anytime 2 payload (readDegreeBody payload))

/-- TAKE_EVENTS (R187). -/
def execTakeEvents (payload : List Byte) (s : State) : Host.Outcome State Fault Refusal :=
  .next (s.answer .anytime 0 payload takeEventsBody)

/-- SET_ATTN_MASK (R188). -/
def execSetAttnMask (payload : List Byte) (s : State) : Host.Outcome State Fault Refusal :=
  .next (s.answer .running 6 payload (setMaskBody payload))

/-- FORCE_GUARD (R155). -/
def execForceGuard (payload : List Byte) (s : State) : Host.Outcome State Fault Refusal :=
  .next (s.answer .running 4 payload (forceGuardBody payload))

/-- LINK_RETRY (R175). -/
def execLinkRetry (payload : List Byte) (s : State) : Host.Outcome State Fault Refusal :=
  .next (s.answer .running 2 payload (linkRetryBody payload))

/-- RESTART (R184). -/
def execRestart (payload : List Byte) (s : State) : Host.Outcome State Fault Refusal :=
  .next (s.answer .running 0 payload restartPart)

/-- UNKNOWN_COMMAND (R182, steps 1 and 2). -/
def execUnknownCommand (_code : Byte) (_payload : List Byte) (s : State) :
    Host.Outcome State Fault Refusal :=
  .next (s.discardResponse.respond
    (if s.part = .restarting then .restarting else .unknownCommand) [])

end Sys2Proof.Machine
end

