-- ==== Sys2Proof/Machine/Events.lean ====
section
/-! DEFINITION. The events that reach the part from its pins, its Timebase, its taps, its keyers and the
switch modules: one meaning for each. An event given when it is not due has no effect (log entry 2). -/

namespace Sys2Proof.Machine

namespace State

/-! ## The Timebase (R26, R43, R131, R173, R180) -/

/-- R173: the response timer of a link at a 1 ms tick, which stops at T_resp (log entry 4). -/
def countTimer (s : State) (d : Degree) : Link :=
  let l := s.link d
  { l with timer := l.timer.map fun n => if n < (s.degreeCfg d).tResp then n + 1 else n }

/-- R180: a 1 ms tick; every 256th carries a frame tick and every 1000th a 1 s tick. -/
def tickMs (s : State) : State :=
  let n := s.timebase.ms + 1
  { s with
    timebase :=
      { ms := n
        frameDue := s.timebase.frameDue || n % 256 == 0
        secondDue := s.timebase.secondDue || n % 1000 == 0 }
    links := tabulate 8 s.countTimer }

/-- R26: elapsed at a 1 s tick. -/
def countElapsed (s : State) (i : Slot) : Option Context :=
  (s.ctx i).map fun c => if c.counting then { c with elapsed := min 65535 (c.elapsed + 1) } else c

/-- R43: the linger count at a 1 s tick. -/
def countLinger (s : State) (k : KeyerNo) : Keyer :=
  let x := s.keyer k
  if x.output = .linger then { x with lingerCount := x.lingerCount - 1 } else x

/-- R26, R43: a 1 s tick. -/
def tickSecond (s : State) : State :=
  let t := { s with timebase := { s.timebase with secondDue := false } }
  if s.part = .run then
    { t with contexts := tabulate 64 s.countElapsed, keyers := tabulate 16 s.countLinger }
  else t

/-- R131: frames left at a frame tick; at the last one the boundary is due. -/
def countFrames (s : State) (d : Degree) : Budget :=
  let b := s.budget d
  match b.window with
  | none => b
  | some w =>
    if 1 < w.framesLeft then { b with window := some { w with framesLeft := w.framesLeft - 1 } }
    else { b with boundaryDue := true }

/-- R51, R131: a frame tick. -/
def tickFrame (s : State) : State :=
  let t := { s with timebase := { s.timebase with frameDue := false } }
  if s.part = .run then
    { t with budgets := tabulate 8 s.countFrames, tae := { s.tae with ended := true } }
  else t

/-! ## Deadlines and linger (R27, R44) -/

/-- R27: the elapsed of the record has become equal to its deadline, in RUN. -/
def deadlineMet (s : State) (i : Slot) : Bool :=
  s.part == .run && (s.ctx i).any fun c => c.counting && c.elapsed == c.deadline

/-- R27. -/
def expireDeadline (i : Slot) (s : State) : State :=
  match s.ctx i with
  | none => s
  | some c =>
    match c.state with
    | .armed => s.endFully i .deadline
    | .adopting => s.endFully i .adoptFailed
    | .opening | .following | .ramping | .settled | .lost => s.withdrawFully i .deadline
    | .withdrawing | .commissioned | .ended => s

/-- R44: the linger count has reached 0, in RUN. -/
def lingerMet (s : State) (k : KeyerNo) : Bool :=
  s.part == .run && (s.keyer k).output == .linger && (s.keyer k).lingerCount == 0

/-- R44. -/
def expireLinger (k : KeyerNo) (s : State) : State :=
  let s1 := s.setKeyer k Keyer.free
  match (s.keyer k).bound with
  | none => s1
  | some i =>
    s1.modCtx i fun c => { c with keyer := none, flags := { c.flags with keyerReleased := true } }

/-! ## Windows (R131) -/

/-- R131: the degree's boundary tick has fallen, in RUN. -/
def boundaryMet (s : State) (d : Degree) : Bool := s.part == .run && (s.budget d).boundaryDue

/-- R131, R138: the boundary starts a window, and a decision follows. -/
def crossBoundary (d : Degree) (s : State) : State :=
  ((s.setBudget d { s.budget d with boundaryDue := false }).startWindow d .boundary).arbitrate

/-! ## Visits (R51, R57, R61, R68, R153) -/

/-- R57: the visit that a frame tick has ended, in RUN. -/
def endedVisit (s : State) : Option Tap :=
  if s.part = .run ∧ s.tae.ended then s.tae.visit else none

def setWaits (b : Bool) (s : State) : State := { s with arbiterWaits := b }

/-- R66 to R68, R153, R165: what the contexts and the Excursion Monitor take from a visit, with the
arbiters' decisions at the moment named (log entry 5). -/
def useReport (t : Tap) (moment : ArbiterMoment) (s : State) : State :=
  match moment with
  | .atPosting => ((s.receiveAll t).testExcursion t).arbitrate
  | .afterTakings =>
    (((((s.setWaits true).receiveAll t).setWaits false).arbitrate).testExcursion t).arbitrate
  | .afterTest =>
    ((((s.setWaits true).receiveAll t).testExcursion t).setWaits false).arbitrate

/-- R51, R57, R58, R61, R153: the end of the visit of a tap. -/
def endVisit (t : Tap) (reading : VisitReading) (moment : ArbiterMoment) (s : State) : State :=
  ((((s.capturePower t reading).updateCensus t reading).useReport t moment).enqueueGuarded t).chooseVisit

/-- R70: the scan starts at this frame tick. -/
def scanDue (s : State) : Bool := s.part == .run && s.tae.visit.isNone && s.tae.ended

/-! ## The port (R181) -/

/-- R181: the response has been built; it carries the part state as it stands (R179). -/
def buildResponse (s : State) : State :=
  match s.buffer with
  | .pending status payload => { s with buffer := .ready (responseFrame status s.part payload) }
  | .empty => s
  | .ready _ => s

/-- R181, R192: a READ transfer that clocks out `count` bytes. -/
def readResponse (count : Nat) (s : State) : State :=
  match s.buffer with
  | .empty => { s with spiOut := [0xFF#8].take count }
  | .pending _ _ => { s with spiOut := [0xFE#8].take count }
  | .ready frame =>
    if frame.length ≤ count then
      { s with spiOut := frame, buffer := .empty }.evaluateAttn
    else { s with spiOut := frame.take count }

/-! ## Symbols (R37, R41) -/

/-- R37: the next symbol of the word, or symbol 0 at the boundary (R41). -/
def advanceSymbol (k : KeyerNo) (s : State) : State :=
  let x := s.keyer k
  match x.position with
  | none => s
  | some p =>
    if x.sending then
      s.setKeyer k (if p < 23 then { x with position := some (p + 1) } else x.boundary)
    else s

/-- R41: the word boundary after symbol 23. -/
def crossWord (k : KeyerNo) (s : State) : State :=
  let x := s.keyer k
  if x.sending && x.position == some 23 then s.setKeyer k x.boundary else s

end State

open State

/-! ## Meanings -/

/-- WRITE_INCOMPLETE (R181): no effect. -/
def execWriteIncomplete (_transfer : List Byte) (s : State) : Host.Outcome State Fault Refusal := .next s

/-- RESPONSE_READ (R181). -/
def execResponseRead (count : Nat) (s : State) : Host.Outcome State Fault Refusal :=
  .next (s.readResponse count)

/-- RESPONSE_READY (R181). -/
def execResponseReady (s : State) : Host.Outcome State Fault Refusal := .next s.buildResponse

/-- RESET_PIN (R185; log entry 22). -/
def execResetPin (s : State) : Host.Outcome State Fault Refusal := .next s.resetPart

/-- RESTART_COMPLETE (R184): in RESTARTING, with every link quiet. -/
def execRestartComplete (s : State) : Host.Outcome State Fault Refusal :=
  .next (if s.part = .restarting ∧ s.quiet then s.returnToRun else s)

/-- MS_TICK (R180). -/
def execMsTick (s : State) : Host.Outcome State Fault Refusal := .next s.tickMs

/-- SECOND_TICK (R26, R43). -/
def execSecondTick (s : State) : Host.Outcome State Fault Refusal :=
  .next (if s.timebase.secondDue then s.tickSecond else s)

/-- FRAME_TICK (R131). -/
def execFrameTick (s : State) : Host.Outcome State Fault Refusal :=
  .next (if s.timebase.frameDue then s.tickFrame else s)

/-- RESPONSE_TIMEOUT (R173, R174, R178). -/
def execResponseTimeout (d : Degree) (s : State) : Host.Outcome State Fault Refusal :=
  .next (if (s.link d).timer = some (s.degreeCfg d).tResp then s.timeOut d else s)

/-- DEADLINE_EXPIRY (R27). -/
def execDeadlineExpiry (i : Slot) (s : State) : Host.Outcome State Fault Refusal :=
  .next (if s.deadlineMet i then s.expireDeadline i else s)

/-- LINGER_EXPIRY (R44). -/
def execLingerExpiry (k : KeyerNo) (s : State) : Host.Outcome State Fault Refusal :=
  .next (if s.lingerMet k then s.expireLinger k else s)

/-- WINDOW_BOUNDARY (R131). -/
def execWindowBoundary (d : Degree) (s : State) : Host.Outcome State Fault Refusal :=
  .next (if s.boundaryMet d then s.crossBoundary d else s)

/-- VISIT_END (R51). -/
def execVisitEnd (reading : VisitReading) (moment : ArbiterMoment) (s : State) :
    Host.Outcome State Fault Refusal :=
  .next (match s.endedVisit with
    | some t => s.endVisit t reading moment
    | none => s)

/-- SCAN_START (R70). -/
def execScanStart (s : State) : Host.Outcome State Fault Refusal :=
  .next (if s.scanDue then s.beginRoundRobin else s)

/-- WORD_BOUNDARY (R41). -/
def execWordBoundary (k : KeyerNo) (s : State) : Host.Outcome State Fault Refusal :=
  .next (s.crossWord k)

/-- LINK_ACCEPT (R169). -/
def execLinkAccept (d : Degree) (number : Byte) (s : State) : Host.Outcome State Fault Refusal :=
  .next (s.takeAccept d number)

/-- LINK_DONE (R170). -/
def execLinkDone (d : Degree) (number value : Byte) (s : State) : Host.Outcome State Fault Refusal :=
  .next (s.takeDone d number value)

/-- LINK_REFUSE (R171). -/
def execLinkRefuse (d : Degree) (number reason : Byte) (s : State) :
    Host.Outcome State Fault Refusal :=
  .next (s.takeRefuse d number reason)

/-- REPLY_DISCARDED (R169): no effect. -/
def execReplyDiscarded (_d : Degree) (_frame : List Byte) (s : State) :
    Host.Outcome State Fault Refusal := .next s

/-- SYMBOL_ADVANCE (R37; log entry 20). -/
def execSymbolAdvance (k : KeyerNo) (s : State) : Host.Outcome State Fault Refusal :=
  .next (s.advanceSymbol k)

end Sys2Proof.Machine
end

