-- ==== Sys2Proof/Machine/Dispatch.lean ====
section
/-! DEFINITION. One arm per command. -/

namespace Sys2Proof.Machine

def exec (i : Instr) (s : State) : Host.Outcome State Fault Refusal :=
  match i with
  | .configure payload => Sys2Proof.Machine.execConfigure payload s
  | .openContext payload => Sys2Proof.Machine.execOpenContext payload s
  | .adopt payload => Sys2Proof.Machine.execAdopt payload s
  | .cancel payload => Sys2Proof.Machine.execCancel payload s
  | .free payload => Sys2Proof.Machine.execFree payload s
  | .readContext payload => Sys2Proof.Machine.execReadContext payload s
  | .readCensus payload => Sys2Proof.Machine.execReadCensus payload s
  | .readDegree payload => Sys2Proof.Machine.execReadDegree payload s
  | .takeEvents payload => Sys2Proof.Machine.execTakeEvents payload s
  | .setAttnMask payload => Sys2Proof.Machine.execSetAttnMask payload s
  | .forceGuard payload => Sys2Proof.Machine.execForceGuard payload s
  | .linkRetry payload => Sys2Proof.Machine.execLinkRetry payload s
  | .restart payload => Sys2Proof.Machine.execRestart payload s
  | .unknownCommand code payload => Sys2Proof.Machine.execUnknownCommand code payload s
  | .writeIncomplete transfer => Sys2Proof.Machine.execWriteIncomplete transfer s
  | .responseRead count => Sys2Proof.Machine.execResponseRead count s
  | .responseReady => Sys2Proof.Machine.execResponseReady s
  | .resetPin => Sys2Proof.Machine.execResetPin s
  | .restartComplete => Sys2Proof.Machine.execRestartComplete s
  | .msTick => Sys2Proof.Machine.execMsTick s
  | .secondTick => Sys2Proof.Machine.execSecondTick s
  | .frameTick => Sys2Proof.Machine.execFrameTick s
  | .responseTimeout d => Sys2Proof.Machine.execResponseTimeout d s
  | .deadlineExpiry slot => Sys2Proof.Machine.execDeadlineExpiry slot s
  | .lingerExpiry k => Sys2Proof.Machine.execLingerExpiry k s
  | .windowBoundary d => Sys2Proof.Machine.execWindowBoundary d s
  | .visitEnd reading moment => Sys2Proof.Machine.execVisitEnd reading moment s
  | .scanStart => Sys2Proof.Machine.execScanStart s
  | .wordBoundary k => Sys2Proof.Machine.execWordBoundary k s
  | .linkAccept d n => Sys2Proof.Machine.execLinkAccept d n s
  | .linkDone d n v => Sys2Proof.Machine.execLinkDone d n v s
  | .linkRefuse d n r => Sys2Proof.Machine.execLinkRefuse d n r s
  | .replyDiscarded d frame => Sys2Proof.Machine.execReplyDiscarded d frame s
  | .symbolAdvance k => Sys2Proof.Machine.execSymbolAdvance k s

end Sys2Proof.Machine
end

