-- ==== Sys2Proof/WellFormed.lean ====
section
/-! DEFINITION. The shape of the commands the outside can send. -/

namespace Sys2Proof

/-- A payload length is a 16-bit number (R192). -/
def payloadOk (payload : List Byte) : Bool := payload.length < 65536

/-- Tones are listed once each, in ascending tone index. -/
def tonesAscending : List ToneReading → Bool
  | [] => true
  | [_] => true
  | a :: b :: rest => a.tone < b.tone && tonesAscending (b :: rest)

/-- A visit has 32 symbol periods for every tone (R34). -/
def decisionsOk (tones : List ToneReading) : Bool :=
  tones.all fun t => t.decisions.length = 32

/-- A command the outside can send. -/
def Instr.wellFormed (i : Instr) : Bool :=
  match i with
  | .configure p => payloadOk p
  | .openContext p => payloadOk p
  | .adopt p => payloadOk p
  | .cancel p => payloadOk p
  | .free p => payloadOk p
  | .readContext p => payloadOk p
  | .readCensus p => payloadOk p
  | .readDegree p => payloadOk p
  | .takeEvents p => payloadOk p
  | .setAttnMask p => payloadOk p
  | .forceGuard p => payloadOk p
  | .linkRetry p => payloadOk p
  | .restart p => payloadOk p
  | .unknownCommand code p => payloadOk p && commandOf code p == .unknownCommand code p
  | .writeIncomplete transfer => decodeTransfer transfer == .writeIncomplete transfer
  | .responseRead _ => true
  | .responseReady => true
  | .resetPin => true
  | .restartComplete => true
  | .msTick => true
  | .secondTick => true
  | .frameTick => true
  | .responseTimeout _ => true
  | .deadlineExpiry _ => true
  | .lingerExpiry _ => true
  | .windowBoundary _ => true
  | .visitEnd reading _ => tonesAscending reading.tones && decisionsOk reading.tones
  | .scanStart => true
  | .wordBoundary _ => true
  | .linkAccept _ _ => true
  | .linkDone _ _ value => value.toNat ≤ 250 || value == 255#8
  | .linkRefuse _ _ reason => reason.toNat ≤ 15
  | .replyDiscarded _ _ => true
  | .symbolAdvance _ => true

end Sys2Proof
end

