-- ==== Sys2Proof/Safety.lean ====
section
/-! DEFINITION. What the statements speak of: the parts of the state that an operation leaves alone, how a
record, a budget and a link may change, and the invariants that every step keeps. -/

namespace Sys2Proof.Machine

/-! ## Parts left alone -/

/-- The part without its tables of records, keyers, budgets and links and without its change flags and
ATTN. -/
structure Still where
  part : PartState
  config : Option PartConfig
  timebase : Timebase
  buffer : Buffer
  spiOut : List Byte
  mask : Classes
  tae : Tae
  guards : Vector Guard 8
  arbiterWaits : Bool
  pending : List Instr
  degreeFlags : Vector DegreeFlags 8
  linkFlags : Vector LinkFlags 8
  deriving DecidableEq, Repr

def State.still (s : State) : Still :=
  { part := s.part, config := s.config, timebase := s.timebase, buffer := s.buffer
    spiOut := s.spiOut, mask := s.mask, tae := s.tae, guards := s.guards
    arbiterWaits := s.arbiterWaits, pending := s.pending
    degreeFlags := s.events.degree, linkFlags := s.events.link }

/-- A link without its request list. -/
def State.wire (s : State) (d : Degree) : Link := { s.link d with requests := [] }

/-- R2: the fields of a record that are written once. -/
structure Identity where
  role : Role
  tone : Tone
  channel : Channel
  ingress : Option Degree
  egress : Option Degree
  priority : Priority
  group : Option Nat
  targetOverride : Option Nat
  sNom : Nat
  tTol : Nat
  deadline : Nat
  deriving DecidableEq, Repr

def Context.identity (c : Context) : Identity :=
  { role := c.role, tone := c.tone, channel := c.channel, ingress := c.ingress, egress := c.egress
    priority := c.priority, group := c.group, targetOverride := c.targetOverride, sNom := c.sNom
    tTol := c.tTol, deadline := c.deadline }

/-! ## How a record may change -/

/-- A relation between the records of a slot, which an IDLE slot and a record never cross (R1). -/
def sameSlot (R : Context → Context → Prop) : Option Context → Option Context → Prop
  | none, none => True
  | some c, some d => R c d
  | none, some _ => False
  | some _, none => False

/-- Only the hold flags (R7) and the group entry mark (R144) may differ. -/
def Context.Calmly (c d : Context) : Prop :=
  d = { c with
    groupEntry := d.groupEntry
    flags :=
      { c.flags with
        budgetWait := d.flags.budgetWait, guardHold := d.flags.guardHold
        linkHold := d.flags.linkHold } }

/-- R2, R79: the fields that only one state has. -/
structure Context.FieldsPresent (c : Context) : Prop where
  drift : c.drift.isSome ↔ c.state = .settled
  cause : c.cause.isSome ↔ c.state = .withdrawing
  outcome : c.outcome.isSome ↔ c.state = .ended
  portClosed : c.portClosed.isSome ↔ c.state = .ended

/-- What every reaction of the part keeps of a record: its identity (R2) and the presence of its fields; ENDED is final and its outcome
stays (R1, R10); a COMMISSIONED or frozen record keeps its elapsed (R26); a WITHDRAWING one only ends
(R9, R10); no record turns to ADOPTING (R21); and no keyer is bound (R18). -/
structure Context.Evolves (c d : Context) : Prop where
  identity : d.identity = c.identity
  ended : c.state = .ended →
    d.state = .ended ∧ d.outcome = c.outcome ∧ d.portClosed = c.portClosed ∧ d.elapsed = c.elapsed
  withdrawing : c.state = .withdrawing → d.state = .withdrawing ∨ d.state = .ended
  commissioned : c.state = .commissioned →
    d.state = .commissioned ∨ d.state = .withdrawing ∨ d.state = .ended
  adopting : d.state = .adopting → c.state = .adopting
  frozen : c.frozen = true → c.state ≠ .adopting → d.frozen = true ∧ d.elapsed = c.elapsed
  elapsed : d.elapsed = c.elapsed ∨ d.elapsed = 0
  keyer : d.keyer = c.keyer ∨ d.keyer = none
  partner : d.partner = c.partner
  fields : c.FieldsPresent → d.FieldsPresent

/-- What the Context Table and the arbiters keep besides: what the switch module and the measure tap have
told of the record, which only a reply (R5, R6, R67) or a measurement (R67) writes. -/
structure Context.Turns (c d : Context) : Prop extends Context.Evolves c d where
  atten : d.atten = c.atten
  switchReason : d.switchReason = c.switchReason
  doneAt : d.doneAt = c.doneAt
  lastPower : d.lastPower = c.lastPower

/-! ## How a budget and a link may change -/

/-- R135: within a window a budget may only be spent. -/
inductive Allowance.Spends : Allowance → Allowance → Prop where
  | mk (budget remaining left : Nat) (h : left ≤ remaining) :
      Allowance.Spends ⟨budget, remaining⟩ ⟨budget, left⟩

/-- R135: a budget whose window goes on. -/
inductive Budget.Spends : Budget → Budget → Prop where
  | same (b : Budget) : Budget.Spends b b
  | spent (frames : Nat) (cause : StartCause) (power : Nat) (a a' : Allowance) (due : Bool)
      (h : Allowance.Spends a a') :
      Budget.Spends ⟨some ⟨frames, cause, power, some a⟩, due⟩ ⟨some ⟨frames, cause, power, some a'⟩, due⟩

/-- R162, R167: a link that keeps its command, or that was IDLE and has sent one. -/
def Link.Sends (l m : Link) : Prop :=
  m = l ∨
    (l.state = .idle ∧ m.state = .busy ∧ m.command.isSome ∧ m.number = l.number + 1#8 ∧
      m.timer = some 0 ∧ m.accepted = false ∧ m.retry = false ∧ m.lastRefusal = l.lastRefusal ∧
      m.sendings = l.sendings + 1)

/-! ## The Keyer Bank -/

/-- R38, R45: a keyer that a record names is bound to its slot, and no record in ENDED names one; a keyer
that is bound is named by the record of the slot it is bound to. -/
structure State.KeyersInv (s : State) : Prop where
  named : ∀ i c k, s.ctx i = some c → c.keyer = some k →
    (s.keyer k).bound = some i ∧ c.live = true
  bound : ∀ k i, (s.keyer k).bound = some i → ∃ c, s.ctx i = some c ∧ c.keyer = some k

/-- R45: the keyer that the record of a slot held is free, unless another record names it too, which R38
rules out. -/
def State.Frees (s t : State) (i : Slot) (c : Context) : Prop :=
  ∀ k, c.keyer = some k → (∀ j x, j ≠ i → s.ctx j = some x → x.keyer ≠ some k) →
    t.keyer k = Keyer.free

/-! ## A command that ends in RESTARTING -/

/-- R178: the link is IDLE without its command, the steps in flight that the command carried are clear, and
nothing else is written but hold flags of the records (R7, R29) and the link's last refusal. -/
structure State.Drops (s t : State) (d : Degree) (cmd : LinkCommand) : Prop where
  still : t.still = s.still
  budgets : t.budgets = s.budgets
  keyers : t.keyers = s.keyers
  events : t.events = s.events
  link : t.link d = { s.link d with
    state := .idle, command := none, timer := none, accepted := false, retry := false
    lastRefusal := (t.link d).lastRefusal }
  links : ∀ e, e ≠ d → t.link e = s.link e
  steps : ∀ e ∈ cmd.entries, ∀ i c, e.slot = some i → s.ctx i = some c →
    ∃ x, t.ctx i = some x ∧ x.step = none
  records : ∀ i, sameSlot (fun c x => { c with step := none }.Calmly { x with step := none })
    (s.ctx i) (t.ctx i)

/-! ## What a shared operation can do -/

/-- R12, R186: outside RESTARTING a change flag stays, and a slot that shows a change has its flag. -/
def State.Marks (s t : State) : Prop :=
  s.part ≠ .restarting → ∀ i : Slot, (s.events.change[i] = true → t.events.change[i] = true) ∧
    ((t.ctx i).map Context.shown = (s.ctx i).map Context.shown ∨ t.events.change[i] = true)

/-- An operation on requests: it touches request lists, hold flags, group entry marks and event flags. -/
structure State.Calm (s t : State) : Prop where
  still : t.still = s.still
  keyers : t.keyers = s.keyers
  budgets : t.budgets = s.budgets
  wire : ∀ d, t.wire d = s.wire d
  records : ∀ i, sameSlot Context.Calmly (s.ctx i) (t.ctx i)
  marks : s.Marks t

/-- A reaction of the Context Table: records take their turns and keyers follow, and the links and
budgets are as they were but for the request lists. -/
structure State.Reacts (s t : State) : Prop where
  still : t.still = s.still
  budgets : t.budgets = s.budgets
  wire : ∀ d, t.wire d = s.wire d
  records : ∀ i, sameSlot Context.Turns (s.ctx i) (t.ctx i)
  marks : s.Marks t
  bank : s.KeyersInv → t.KeyersInv

/-- A reaction with the arbiters' decisions: budgets are also spent, and IDLE links send. -/
structure State.MovesBy (R : Context → Context → Prop) (s t : State) : Prop where
  still : t.still = s.still
  budgets : ∀ d, Budget.Spends (s.budget d) (t.budget d)
  wire : ∀ d, Link.Sends (s.wire d) (t.wire d)
  records : ∀ i, sameSlot R (s.ctx i) (t.ctx i)
  marks : s.Marks t
  bank : s.KeyersInv → t.KeyersInv

/-- A reaction of the Context Table and of the arbiters. -/
abbrev State.Decides (s t : State) : Prop := s.MovesBy Context.Turns t

/-- What a report, a measurement or a reply brings. -/
abbrev State.Moves (s t : State) : Prop := s.MovesBy Context.Evolves t

/-! ## A command frame (R181, R182, R188) -/

/-- A frame that is taken discards the response held, at which ATTN takes its level. -/
def State.taken (s : State) : State :=
  { s with events :=
    { s.events with attn := if s.buffer = .empty then s.events.attn else s.attnLevel } }

/-- A frame refused with a status changes nothing else. -/
def State.refused (s : State) (status : Status) : State :=
  { s.taken with buffer := .pending status [] }

/-- A frame answered OK with a payload. -/
def State.accepted (s : State) (payload : List Byte) : State :=
  { s with buffer := .pending .ok payload }

/-! ## Fields of a response (R193), as numbers of 16 bits -/

/-- A 16-bit field that may be absent. -/
def sent (v : Option Nat) : Nat := v.getD 65535

/-- The two halves of an unsigned 32-bit field. -/
def halves (n : Nat) : List Nat := [n / 65536 % 65536, n % 65536]

/-- A 32-bit field that may be absent. -/
def sentWide (v : Option Nat) : List Nat := (v.map halves).getD [65535, 65535]

/-- The two halves of a signed 32-bit field. -/
def signedHalves (v : Int) : List Nat := halves (v % 4294967296).toNat

/-- A power with its SATURATED mark (log entry 23). -/
def sentReading (r : Option Reading) : List Nat :=
  sentWide (r.map (·.value)) ++ [(r.any (·.saturated)).toNat]

/-- R25, R47: the fields of a record that is not IDLE, with its keyer. -/
def Context.sentFields (c : Context) (k : Option Keyer) : List Nat :=
  [c.role.code, c.tone.val, c.channel.val, sent (c.ingress.map (·.val)),
    sent (c.egress.map (·.val)), c.priority.code, sent c.group, sent c.targetOverride, c.sNom,
    c.tTol, c.deadline, sent (c.partner.map (·.val)), sent (c.answerHold.map AnswerHold.code)] ++
  halves c.elapsed ++
  [c.frozen.toNat, c.atten.code, sent (c.keyer.map (·.val))] ++
  sentWide c.lastPower ++
  [sent (c.step.map (·.kind.code)), sent (c.step.bind fun x => x.direction.map Direction.code),
    sent (c.step.bind (·.size)), sent (c.step.bind (·.commanded))] ++
  sentWide (c.step.map (·.charge)) ++
  [setField c.flags.members, sent c.switchReason, sent (c.cause.map Ending.code),
    sent (c.outcome.map Ending.code), sent (c.portClosed.map (·.toNat)),
    sent (k.map (·.output.code)), sent (k.bind fun x => x.active.map (·.state.code)),
    sent (k.bind fun x => x.staged.map (·.state.code)),
    sent (k.bind fun x => if x.output = .linger then some x.lingerCount else none),
    sent c.drift, c.heard.toNat, c.groupEntry.toNat]

/-- R69: the fields of an entry. -/
def CensusEntry.sentFields (e : CensusEntry) (watched : Bool) : List Nat :=
  [e.tone.val] ++ halves e.latest ++ halves e.prior ++
  [sent (e.decoded.map fun x => x.1.val), sent (e.decoded.map fun x => x.2.code),
    if e.lastDecoded then 1 else 2, e.presence, e.absence, e.undecoded, e.stable, watched.toNat]

/-- R140. -/
def Budget.sentFields (b : Budget) : List Nat :=
  match b.window with
  | none => [0, 65535, 65535, 65535, 65535, 65535, 65535, 65535, 65535]
  | some w =>
    [if w.allowance.isSome then 1 else 2, w.framesLeft, w.cause.code] ++ halves w.startPower ++
      sentWide (w.allowance.map (·.budget)) ++ sentWide (w.allowance.map (·.remaining))

/-- R159; `wide` stands for the two halves of a last D outside 32 bits, which the manual leaves open (log
entry 10). -/
def Guard.sentFields (g : Guard) (wide : List Nat) : List Nat :=
  [(g.auto || g.forced).toNat, g.auto.toNat, g.forced.toNat, g.clean] ++ signedHalves g.expected ++
    [g.lastTest.code] ++
    match g.lastD with
    | none => [0, 0, 0]
    | some d => 1 :: if -2147483648 ≤ d ∧ d ≤ 2147483647 then signedHalves d else wide

/-- R176, R193: the slots of 16 entries, those beyond the entries absent. -/
def LinkCommand.sentSlots (c : LinkCommand) : List Nat :=
  (c.entries.map (fun e : CommandEntry => sent (e.slot.map Fin.val)) ++
    List.replicate 16 65535).take 16

/-- R176 (log entry 27 for a command that is not present). -/
def Link.sentFields (l : Link) : List Nat :=
  let held (level : Level) (hold : Request → Bool) : Nat :=
    l.requests.countP fun r => r.level == level && hold r
  [l.state.code, l.requests.length,
    held .urgent (·.budgetHold), held .urgent (·.guardHold),
    held .high (·.budgetHold), held .high (·.guardHold),
    held .low (·.budgetHold), held .low (·.guardHold)] ++
  (match l.command with
    | none => List.replicate 22 65535
    | some c =>
      [c.kind.code, c.side.code, l.number.toNat, c.entries.length] ++
        c.sentSlots ++
        [l.accepted.toNat, l.retry.toNat]) ++
  [sent l.timer, sent l.lastRefusal]

/-! ## CONFIGURE (R183) -/

/-- A value given as DEFAULT selects its default; every other is clamped into its range. -/
def configValue (lo hi default v : Nat) : Nat := if v = 65535 then default else max lo (min hi v)

/-! ## OPEN and ADOPT (R14 to R21) -/

/-- A record with nothing written after opening. -/
def Context.Fresh (c : Context) : Prop :=
  c = { c with
    elapsed := 0, frozen := false, lastPower := none, step := none, flags := CondFlags.clear
    switchReason := none, cause := none, outcome := none, portClosed := none, drift := none
    heard := false, groupEntry := false, freshHeld := false, doneAt := none, inLoss := false
    mustBlock := false }

/-- R14: a reason for BAD_FIELD. -/
def State.BadFields (s : State) (f : OpenFields) : Prop :=
  ¬ (1 ≤ f.role ∧ f.role ≤ 4) ∨
  255 < f.tone ∨ 127 < f.channel ∨
  ¬ (f.priority = 1 ∨ f.priority = 2) ∨
  (f.role ≠ 4 ∧ ¬ ∃ e : Degree, f.egress = e.val ∧ s.present e = true) ∨
  (3 ≤ f.role ∧ ¬ ∃ d : Degree, f.ingress = d.val ∧ s.present d = true) ∨
  (f.role = 3 ∧ f.ingress = f.egress) ∨
  (f.group ≠ 65535 ∧ ¬ (1 ≤ f.group ∧ f.group ≤ 15)) ∨
  (f.role = 4 ∧ f.group ≠ 65535) ∨
  (f.group ≠ 65535 ∧ ∃ j c, s.ctx j = some c ∧ c.live = true ∧ c.group = some f.group ∧
    c.egress.map (·.val) ≠ some f.egress) ∨
  (f.group ≠ 65535 ∧
    16 ≤ (allSlots.filter fun j => (s.ctx j).any fun c => c.live && c.group == some f.group).length)

/-- R14, R17, R20: the fields describe a record that the table admits; the partner is apart. -/
structure State.Describes (s : State) (f : OpenFields) (c : Context) : Prop where
  role : f.role = c.role.code
  tone : f.tone = c.tone.val
  channel : f.channel = c.channel.val
  priority : f.priority = c.priority.code
  noEgress : c.role = .tail → c.egress = none
  egress : c.role ≠ .tail → ∃ e, c.egress = some e ∧ f.egress = e.val ∧ s.present e = true
  noIngress : c.head = true → c.ingress = none
  ingress : c.head = false → ∃ d, c.ingress = some d ∧ f.ingress = d.val ∧ s.present d = true
  distinct : c.role = .transit → c.ingress ≠ c.egress
  group : f.group = sent c.group
  admitted : ∀ g, c.group = some g → 1 ≤ g ∧ g ≤ 15 ∧ c.role ≠ .tail ∧
    (∀ j x, s.ctx j = some x → x.live = true → x.group = some g → x.egress = c.egress) ∧
    (allSlots.filter fun j => (s.ctx j).any fun x => x.live && x.group == some g).length < 16
  targetOverride : c.targetOverride =
    if f.targetOverride = 65535 then none else some (max 1 (min 10000 f.targetOverride))
  sNom : c.sNom = max 1 (min 20 f.sNom)
  tTol : c.tTol = max 1 (min 10 f.tTol)
  deadline : c.deadline = max 10 (min 7200 f.deadline)

/-- R16: the partner that the fields name, and that a record of a role and tone may have. -/
def State.ValidPartner (s : State) (f : OpenFields) (role : Role) (tone : Tone) :
    Option Slot → Prop
  | none => f.partner = 65535 ∧ role ≠ .answer
  | some p => f.partner = p.val ∧ ∃ x, s.ctx p = some x ∧ x.live = true ∧ x.state ≠ .withdrawing ∧
      x.tone = tone ∧ x.partner = none ∧
      (((role = .origin ∨ role = .answer) ∧ x.role = .tail) ∨
        (role = .tail ∧ (x.role = .origin ∨ x.role = .answer)))

/-- R15: no live record owns the port of a record. -/
def State.PortFree (s : State) (c : Context) : Prop :=
  ∀ j x, s.ctx j = some x → x.live = true → x.port ≠ c.port

/-- R15: no live record holds the tone claim of a record. -/
def State.ToneFree (s : State) (c : Context) : Prop :=
  ∀ j x, s.ctx j = some x → x.live = true → x.toneClaim ≠ c.toneClaim

/-- R19: the partner of an ANSWER has settled or commissioned. -/
def State.PartnerLeveled (s : State) (c : Context) : Prop :=
  ∃ p x, c.partner = some p ∧ s.ctx p = some x ∧ (x.state = .settled ∨ x.state = .commissioned)

/-- R18: the lowest-numbered free keyer. -/
def State.LowestFree (s : State) (k : KeyerNo) : Prop :=
  s.keyer k = Keyer.free ∧ ∀ j, j < k → (s.keyer j).bound ≠ none

/-- The record that OPEN or ADOPT binds as partner. -/
def Context.boundTo (x : Context) (j : Slot) (p : Option Slot) (i : Slot) : Context :=
  if p = some j then { x with partner := some i } else x

/-! ## The part between its states (R28, R70, R130, R177, R184, R185) -/

/-- A link without a command or a request. -/
def Link.Cleared (l : Link) (st : LinkState) : Prop :=
  l = { Link.reset with
    state := st, number := l.number, lastFrame := l.lastFrame, sendings := l.sendings }

/-- Everything but the configuration is as the RESET pin leaves it. -/
structure State.Bare (s : State) : Prop where
  config : s.config = none
  mask : s.mask = Classes.empty
  events : s.events = Events.clear
  contexts : ∀ i, s.ctx i = none
  keyers : ∀ k, s.keyer k = Keyer.free
  tae : s.tae = Tae.stopped
  budgets : ∀ d, s.budget d = Budget.noWindow
  guards : ∀ d, s.guard d = Guard.clear
  links : ∀ d, (s.link d).Cleared .idle
  arbiterWaits : s.arbiterWaits = false

/-- R131, R132: the window a degree starts while no LINE_OUT power has been read. -/
def Window.first (cfg : PartConfig) (cause : StartCause) : Window :=
  { framesLeft := cfg.window, cause := cause, startPower := 0, allowance := none }

/-- R184: the clearing at the return to RUN, with the configuration kept. -/
structure State.Cleared (s t : State) : Prop where
  rest : t = { s with
    part := .run, mask := Classes.empty, events := Events.clear, contexts := t.contexts
    keyers := t.keyers, tae := Tae.stopped, budgets := t.budgets, guards := t.guards
    links := t.links, buffer := t.buffer }
  contexts : ∀ i, t.ctx i = none
  keyers : ∀ k, t.keyer k = Keyer.free
  guards : ∀ d, t.guard d = Guard.clear
  budgets : ∀ d, t.budget d =
    { window := if s.present d = true then some (Window.first s.cfg .restart) else none
      boundaryDue := false }
  links : ∀ d, t.link d =
    { Link.reset with
      state := if s.present d = true then .idle else .absent, number := (s.link d).number
      lastFrame := (s.link d).lastFrame, sendings := (s.link d).sendings }

/-- R165: no link has a decision to make. -/
def State.Decided (s : State) : Prop := ∀ d, s.decisionDue d = false

/-- R172: the link entries that carry the record of a slot carry none. -/
def Link.forgetting (l : Link) (i : Slot) : Link :=
  let leave (e : CommandEntry) : CommandEntry :=
    { e with slot := if e.slot = some i then none else e.slot }
  { l with command := l.command.map fun c => { c with entries := c.entries.map leave } }

/-- R17: a record whose partner's slot is left. -/
def Context.leftBy (x : Context) (j i : Slot) (p : Option Slot) : Context :=
  if p = some j ∧ x.partner = some i then { x with partner := none } else x

/-! ## Invariants -/

/-- R54, R57. -/
def State.QueueInv (s : State) : Prop :=
  s.tae.queue.Nodup ∧ s.tae.queue.length ≤ 32 ∧ s.tae.priorityRun ≤ 3

/-- R60: the ranges of an entry's counters and powers. -/
def CensusEntry.InRange (e : CensusEntry) : Prop :=
  e.latest ≤ 316227 ∧ e.prior ≤ 316227 ∧ e.presence ≤ 255 ∧ e.absence ≤ 7 ∧ e.undecoded ≤ 15 ∧
    e.stable ≤ 15

/-- R60. -/
def State.CensusInv (s : State) : Prop :=
  ∀ t, (s.tap t).census.length ≤ 128 ∧
    ((s.tap t).census.map (·.tone)).Pairwise (· < ·) ∧ ∀ e ∈ (s.tap t).census, e.InRange

/-- R130, R135: within a window the charges reserved come to at most its budget, and an UNLOADED window
reserves none. -/
structure State.BudgetInv (s : State) : Prop where
  configured : s.config = none ↔ s.part = .unconfigured
  length : ∀ cfg, s.config = some cfg → 4 ≤ cfg.window ∧ cfg.window ≤ 64
  unconfigured : s.part = .unconfigured → ∀ d, (s.budget d).window = none
  frames : ∀ d w, (s.budget d).window = some w → 1 ≤ w.framesLeft ∧ w.framesLeft ≤ s.cfg.window
  spent : ∀ d w a, (s.budget d).window = some w → w.allowance = some a →
    1 ≤ a.budget ∧ a.remaining ≤ a.budget

/-- R162: the command, timer and marks of a link by its state. -/
structure Link.Shaped (l : Link) : Prop where
  command : l.command.isSome = true ↔ l.state = .busy ∨ l.state = .retrying ∨ l.state = .faulted
  timer : l.timer.isSome = true ↔ l.state = .busy ∨ l.state = .retrying
  marks : l.command = none → l.accepted = false ∧ l.retry = false
  faulted : l.state = .faulted → l.retry = true

/-- R162, R177: every link, and no link has a command while the part is UNCONFIGURED. -/
def State.LinkInv (s : State) : Prop :=
  (∀ d, (s.link d).Shaped) ∧ (s.part = .unconfigured → ∀ d, (s.link d).command = none)

/-- R15: no two live records own one port or hold one tone claim. -/
def State.ClaimsInv (s : State) : Prop :=
  ∀ i j c x, s.ctx i = some c → s.ctx j = some x → c.live = true → x.live = true → i ≠ j →
    c.port ≠ x.port ∧ c.toneClaim ≠ x.toneClaim

/-- R16: bindings are mutual, join a head to a TAIL, and are of one tone. -/
def State.PartnersInv (s : State) : Prop :=
  ∀ i c p, s.ctx i = some c → c.partner = some p →
    ∃ x, s.ctx p = some x ∧ x.partner = some i ∧ x.tone = c.tone ∧ x.isTail = !c.isTail

/-- R2, R79. -/
def State.FieldsInv (s : State) : Prop := ∀ i c, s.ctx i = some c → c.FieldsPresent

/-- R28, R70, R130, R177, R179, R185: while the part is UNCONFIGURED it is bare. -/
def State.BareInv (s : State) : Prop := s.part = .unconfigured → s.Bare

end Sys2Proof.Machine
end

