-- ==== Sys2Proof/Certificates/Slice0/Obligations.lean ====
section
/-! DEFINITION. The statements for the provers. -/

open Sys2Proof Sys2Proof.Machine

/-! ## The queue of commands -/

/-- The command at the front of the queue runs on the part with the rest of the queue. On an empty queue
the part idles (DESIGN CHOICE, log entry 1). -/
def Obligations.StepRunsTheFrontCommand : Prop :=
  (∀ (c : Instr) (rest : List Instr) (s : State), s.pending = c :: rest →
    step s = exec c { s with pending := rest }) ∧
  ∀ s : State, s.pending = [] → step s = .next s

/-- Every command runs, and none touches the queue (log entry 1). -/
def Obligations.EveryCommandRuns : Prop :=
  ∀ (c : Instr) (s : State), ∃ t, exec c s = .next t ∧ t.pending = s.pending

/-! ## Leveling arithmetic -/

/-- R117. -/
def Obligations.BandTestClasses : Prop :=
  (∀ p P t : Nat, p ≤ 316227 → 1 ≤ P → P ≤ 10000 → 1 ≤ t → t ≤ 10 →
    (bandTest p P t = .below ↔ p * stepQ t < P * 4096) ∧
    (bandTest p P t = .above ↔ p * 4096 > P * stepQ t) ∧
    (bandTest p P t = .within ↔ ¬ p * stepQ t < P * 4096 ∧ ¬ p * 4096 > P * stepQ t) ∧
    ¬ (p * stepQ t < P * 4096 ∧ p * 4096 > P * stepQ t) ∧
    (p = 0 → bandTest p P t = .below) ∧
    (p = 316227 → bandTest p P t = .above)) ∧
  stepQ 3 = 4389 ∧
  bandTest 466 500 3 = .below ∧ bandTest 467 500 3 = .within ∧ bandTest 535 500 3 = .within ∧
    bandTest 536 500 3 = .above

/-- R119, with R118 at attenuation 0. -/
def Obligations.DownStepIsTheLargestThatFits : Prop :=
  ∀ p P t sNom a : Nat, p ≤ 316227 → 1 ≤ P → P ≤ 10000 → 1 ≤ t → t ≤ 10 → 1 ≤ sNom → sNom ≤ 20 →
    bandTest p P t = .below →
    (1 ≤ a → a ≤ 250 → ∃ s, planStep p P t sNom a = .move .down s ∧
      1 ≤ s ∧ s ≤ min sNom a ∧ p * stepQ s ≤ P * 4096 ∧
      (∀ s', s < s' → s' ≤ min sNom a → ¬ p * stepQ s' ≤ P * 4096) ∧
      p * stepQ 1 ≤ P * 4096 ∧ stepQ 1 ≤ stepQ t ∧
      (p = 0 → s = min sNom a) ∧
      commandedAtten .down a s = a - s ∧ a - s ≤ 249) ∧
    planStep p P t sNom 0 = .settle (some .short)

/-- R120, with R118 at attenuation 250. -/
def Obligations.UpStepIsTheLargestThatFits : Prop :=
  ∀ p P t sNom a : Nat, p ≤ 316227 → 1 ≤ P → P ≤ 10000 → 1 ≤ t → t ≤ 10 → 1 ≤ sNom → sNom ≤ 20 →
    bandTest p P t = .above →
    (a ≤ 249 → ∃ s, planStep p P t sNom a = .move .up s ∧
      1 ≤ s ∧ s ≤ min sNom (250 - a) ∧ p * 4096 ≥ P * stepQ s ∧
      (∀ s', s < s' → s' ≤ min sNom (250 - a) → ¬ p * 4096 ≥ P * stepQ s') ∧
      p * 4096 ≥ P * stepQ 1 ∧
      (p = 316227 → s = min sNom (250 - a)) ∧
      commandedAtten .up a s = a + s ∧ 1 ≤ a + s ∧ a + s ≤ 250) ∧
    planStep p P t sNom 250 = .settle (some .excess)

/-- R118 in band; R125, R126 and R122's charge; R127's figure. -/
def Obligations.StepChargesAreTheFormulas : Prop :=
  (∀ p s : Nat, 1 ≤ s → s ≤ 20 →
    stepCharge .down p s = max 1 (p * stepG s / 4096) ∧
    stepCharge .up p s = max 1 (p * stepG s / (4096 + stepG s)) ∧
    withdrawCharge (some p) s = stepCharge .up p s ∧
    withdrawCharge none s = 1 ∧
    1 ≤ stepCharge .down p s ∧
    stepCharge .up p s ≤ stepCharge .down p s) ∧
  (∀ (entries : List GroupEntry) (s : Nat), groupCharge entries s =
    (entries.map fun e => max 1 (e.power * stepG s / 4096)).sum) ∧
  (∀ p : Nat, openCharge p = max 1 (p / 256)) ∧
  stepCharge .up 800 10 = 164 ∧ stepCharge .down 800 10 = 207

/-- The table of section 6.2 is the formula it stands for, rounded to the nearest whole number, and
rises; the charges do not fall as the size rises, and stay within the largest values of section 6.7. -/
def Obligations.StepTableAndChargesRise : Prop :=
  (∀ s : Nat, 1 ≤ s → s ≤ 20 →
    stepQ s = 4096 + stepG s ∧
    (2 * stepQ s - 1) ^ 100 ≤ 8192 ^ 100 * 10 ^ s ∧
    8192 ^ 100 * 10 ^ s < (2 * stepQ s + 1) ^ 100) ∧
  stepQ 0 = 4096 ∧
  (∀ s s' : Nat, s < s' → s' ≤ 20 → stepG s < stepG s') ∧
  (∀ p s s' : Nat, 1 ≤ s → s ≤ s' → s' ≤ 20 →
    brightenCharge p s ≤ brightenCharge p s' ∧ dimCharge p s ≤ dimCharge p s') ∧
  (∀ (entries : List GroupEntry) (s s' : Nat), 1 ≤ s → s ≤ s' → s' ≤ 20 →
    groupCharge entries s ≤ groupCharge entries s') ∧
  ∀ p s : Nat, p ≤ 316227 → 1 ≤ s → s ≤ 20 →
    brightenCharge p s ≤ 184980 ∧ dimCharge p s ≤ 116709 ∧ openCharge p ≤ 1235

/-- The Budget Unit's answer, by the window of the degree: R135 to R138. -/
def Obligations.BudgetAnswersByTheRemaining : Prop :=
  ∀ (b : Budget) (w : Window) (charge : Nat → Nat) (size : Nat) (shrinks : Bool),
    b.window = some w →
    (w.allowance = none → b.offer charge size shrinks = .uncharged) ∧
    ∀ a : Allowance, w.allowance = some a →
      (charge size ≤ a.remaining → b.offer charge size shrinks = .grant size (charge size)) ∧
      (a.remaining < charge size → shrinks = false → b.offer charge size shrinks = .hold) ∧
      (a.remaining < charge size → shrinks = true →
        (∀ n, 1 ≤ n → n < size → a.remaining < charge n) → b.offer charge size shrinks = .hold) ∧
      (∀ n, a.remaining < charge size → shrinks = true → 1 ≤ n → n < size →
        charge n ≤ a.remaining → (∀ m, n < m → m < size → a.remaining < charge m) →
        b.offer charge size shrinks = .grant n (charge n)) ∧
      ∀ x, x ≤ a.remaining → (b.reserve x).window = some { w with
        allowance := some { a with remaining := a.remaining - x } }

/-! ## The pilot-tone layer -/

/-- R33: the check of a word, as the keyer and the decoder compute it. -/
def Obligations.ToneCheckIsTheExclusiveOr : Prop :=
  (∀ channel code index : Nat, channel < 128 → code < 8 → index < 16 →
    let v := channel * 512 + code * 64 + index * 4
    v ≤ 65532 ∧
    toneCheck channel code index =
      (v / 4096) ^^^ (v / 256 % 16) ^^^ (v / 16 % 16) ^^^ (v % 16) ∧
    toneCheck channel code index ≤ 15 ∧
    ∀ code', code' < 8 → code' ≠ code → toneCheck channel code' index ≠ toneCheck channel code index) ∧
  (∀ w : ToneWord, w.check = toneCheck w.channel.val w.state.code (w.tone.val % 16)) ∧
  ∀ word : List Bool, qualifies word = true →
    wordField word 20 4 = toneCheck (wordField word 6 7) (wordField word 13 3) (wordField word 16 4)

/-- A word is 24 symbols of the layout of the Formats section, and a window that holds it in any phase
decodes as it when no other rotation qualifies. -/
def Obligations.AKeyedWordIsReadBack : Prop :=
  ∀ w : ToneWord,
    w.symbols.length = 24 ∧ w.symbols.take 6 = [true, true, true, false, false, true] ∧
    wordField w.symbols 6 7 = w.channel.val ∧ wordField w.symbols 13 3 = w.state.code ∧
    wordField w.symbols 16 4 = w.tone.val % 16 ∧ wordField w.symbols 20 4 = w.check ∧
    qualifies w.symbols = true ∧
    ∀ (before : List Bool) (r : Nat), before.length = 8 → r < 24 →
      ((List.range 24).countP fun n => qualifies (rotation (rotation w.symbols r) n)) = 1 →
      decodeWindow w.tone (before ++ rotation w.symbols r) = some (w.channel, w.state)

/-! ## Transfers -/

/-- Decoding the shortest transfer that makes a command gives the command back; bytes beyond its length
are ignored, and a WRITE cut short makes none. -/
def Obligations.TransfersDecodeAsTheyEncode : Prop :=
  (∀ (i : Instr) (bytes : List Byte), i.wellFormed = true → encodeTransfer i = some bytes →
    decodeTransfer bytes = i) ∧
  (∀ (i : Instr) (bytes more : List Byte), i.wellFormed = true → (codeOf i).isSome = true →
    encodeTransfer i = some bytes → decodeTransfer (bytes ++ more) = i) ∧
  ∀ (i : Instr) (bytes : List Byte) (n : Nat), i.wellFormed = true → (codeOf i).isSome = true →
    encodeTransfer i = some bytes → n < bytes.length →
    decodeTransfer (bytes.take n) = .writeIncomplete (bytes.take n)

/-! ## Command frames -/

/-- The checks that every command frame meets before its own: the part state's of R179 and R182, and the
length's, with the lengths of the Formats section. -/
def Obligations.FramesAreCheckedInTheirOrder : Prop :=
  (∀ (i : Instr) (s : State), (codeOf i).isSome = true → s.part = .restarting →
    exec i s = .next (s.refused .restarting)) ∧
  (∀ (make : List Byte → Instr) (payload : List Byte) (s : State),
    make ∈ [Instr.openContext, .adopt, .cancel, .free, .readContext, .readCensus, .setAttnMask,
      .forceGuard, .linkRetry, .restart] →
    s.part = .unconfigured → exec (make payload) s = .next (s.refused .notConfigured)) ∧
  (∀ (payload : List Byte) (s : State), s.part = .run →
    exec (.configure payload) s = .next (s.refused .alreadyConfigured)) ∧
  (∀ (code : Byte) (payload : List Byte) (s : State), s.part ≠ .restarting →
    exec (.unknownCommand code payload) s = .next (s.refused .unknownCommand)) ∧
  (∀ (make : List Byte → Instr) (length : Nat) (payload : List Byte) (s : State),
    (make, length) ∈ [(Instr.openContext, 26), (.adopt, 26), (.cancel, 2), (.free, 2),
      (.readContext, 2), (.readCensus, 6), (.readDegree, 2), (.takeEvents, 0), (.setAttnMask, 6),
      (.forceGuard, 4), (.linkRetry, 2), (.restart, 0)] →
    s.part = .run → payload.length ≠ length →
    exec (make payload) s = .next (s.refused .badField)) ∧
  ∀ (make : List Byte → Instr) (length : Nat) (payload : List Byte) (s : State),
    (make, length) ∈ [(Instr.configure, 130), (.readDegree, 2), (.takeEvents, 0)] →
    s.part = .unconfigured → payload.length ≠ length →
    exec (make payload) s = .next (s.refused .badField)
/-- R183: every value of a configuration is its default or clamped, and one with no degree present is
refused. -/
def Obligations.ConfigureClampsItsValues : Prop :=
  (∀ (p : List Byte) (d : Degree),
    (PartConfig.ofPayload p).degrees[d] =
      { present := decide (fieldAt p (7 * d.val) ≠ 0)
        launch := configValue 1 10000 500 (fieldAt p (7 * d.val + 1))
        dropTarget := configValue 1 10000 100 (fieldAt p (7 * d.val + 2))
        fraction := configValue 1 255 31 (fieldAt p (7 * d.val + 3))
        floor := configValue 1 10000 50 (fieldAt p (7 * d.val + 4))
        excursionLevel := configValue 0 3 1 (fieldAt p (7 * d.val + 5))
        tResp := configValue 50 2000 500 (fieldAt p (7 * d.val + 6)) }) ∧
  (∀ p : List Byte, PartConfig.ofPayload p =
    { degrees := (PartConfig.ofPayload p).degrees
      presence := configValue 1 1000 2 (fieldAt p 56)
      dwell := configValue 1 15 2 (fieldAt p 57)
      lossCount := configValue 1 7 2 (fieldAt p 58)
      collisionCount := configValue 1 15 3 (fieldAt p 59)
      stabilityLevel := configValue 0 3 1 (fieldAt p 60)
      stabilityCount := configValue 1 15 3 (fieldAt p 61)
      guardExit := configValue 1 15 4 (fieldAt p 62)
      window := configValue 4 64 8 (fieldAt p 63)
      linger := configValue 10 600 60 (fieldAt p 64) }) ∧
  ∀ (p : List Byte) (s : State), s.part = .unconfigured → p.length = 130 →
    (∀ d : Degree, fieldAt p (7 * d.val) = 0) → exec (.configure p) s = .next (s.refused .badField)

/-- An accepted CONFIGURE: R183, with the links of R177 and the first windows of R141. -/
def Obligations.ConfigurePutsThePartInRun : Prop :=
  ∀ (p : List Byte) (s : State), s.part = .unconfigured → s.Bare → p.length = 130 →
    (∃ d : Degree, fieldAt p (7 * d.val) ≠ 0) →
    let cfg := PartConfig.ofPayload p
    ∃ t, exec (.configure p) s = .next t ∧
      t = { s.taken with
        part := .run, config := some cfg, budgets := t.budgets, links := t.links
        buffer := .pending .ok (payload16 (
          (allDegrees.flatMap fun d => [cfg.degrees[d].present.toNat, cfg.degrees[d].launch,
            cfg.degrees[d].dropTarget, cfg.degrees[d].fraction, cfg.degrees[d].floor,
            cfg.degrees[d].excursionLevel, cfg.degrees[d].tResp]) ++
          [cfg.presence, cfg.dwell, cfg.lossCount, cfg.collisionCount, cfg.stabilityLevel,
            cfg.stabilityCount, cfg.guardExit, cfg.window, cfg.linger])) } ∧
      ∀ d : Degree,
        t.budget d =
          { window := if cfg.degrees[d].present = true then some (Window.first cfg .configure)
              else none
            boundaryDue := false } ∧
        t.link d =
          { s.link d with state := if cfg.degrees[d].present = true then .idle else .absent }

/-! ## OPEN and ADOPT -/

/-- R14, for an IDLE slot and for one whose ENDED record the OPEN would discard. -/
def Obligations.OpenRefusesBadFields : Prop :=
  ∀ (p : List Byte) (s : State) (i : Slot), s.part = .run → p.length = 26 →
    (OpenFields.ofPayload p).slot = i.val → (∀ c, s.ctx i = some c → c.state = .ended) →
    s.BadFields (OpenFields.ofPayload p) →
    exec (.openContext p) s = .next (s.refused .badField) ∧
    exec (.adopt p) s = .next (s.refused .badField)

/-- The other refusals of OPEN and ADOPT, in their order, for an IDLE slot (R13, R15, R16, R18). -/
def Obligations.OpenRefusesClaimsThatAreHeld : Prop :=
  ∀ (p : List Byte) (s : State), s.part = .run → p.length = 26 →
    let f := OpenFields.ofPayload p
    (63 < f.slot → exec (.openContext p) s = .next (s.refused .badField) ∧
      exec (.adopt p) s = .next (s.refused .badField)) ∧
    ∀ i : Slot, f.slot = i.val →
      (∀ x, s.ctx i = some x → x.live = true → exec (.openContext p) s = .next (s.refused .busy) ∧
        exec (.adopt p) s = .next (s.refused .busy)) ∧
      ∀ c, s.ctx i = none → s.Describes f c →
        ((∀ q, ¬ s.ValidPartner f c.role c.tone q) →
          exec (.openContext p) s = .next (s.refused .partnerInvalid) ∧
          exec (.adopt p) s = .next (s.refused .partnerInvalid)) ∧
        ∀ q, s.ValidPartner f c.role c.tone q →
          (¬ s.PortFree c → exec (.openContext p) s = .next (s.refused .portTaken) ∧
            exec (.adopt p) s = .next (s.refused .portTaken)) ∧
          (s.PortFree c → ¬ s.ToneFree c →
            exec (.openContext p) s = .next (s.refused .toneTaken) ∧
            exec (.adopt p) s = .next (s.refused .toneTaken)) ∧
          (s.PortFree c → s.ToneFree c → c.head = true → (∀ k, (s.keyer k).bound ≠ none) →
            exec (.openContext p) s = .next (s.refused .noKeyer))

/-- An accepted OPEN on an IDLE slot: the record of R19, the binding of R16, the keyer of R18 and R42. The
four fields of a record that the manual implies are the model's (DEDUCED, log entry 14). -/
def Obligations.OpenWritesTheRecord : Prop :=
  ∀ (p : List Byte) (s : State) (i : Slot) (c : Context), s.part = .run → p.length = 26 →
    (OpenFields.ofPayload p).slot = i.val → s.ctx i = none →
    s.Describes (OpenFields.ofPayload p) c →
    s.ValidPartner (OpenFields.ofPayload p) c.role c.tone c.partner → s.PortFree c → s.ToneFree c →
    c.Fresh → c.state = .armed → c.atten = .blocked →
    (c.role ≠ .answer → c.answerHold = none) →
    (c.role = .answer → s.PartnerLeveled c → c.answerHold = some .released) →
    (c.role = .answer → ¬ s.PartnerLeveled c → c.answerHold = some .held) →
    (c.head = false → c.keyer = none) → (c.head = true → ∃ k, c.keyer = some k ∧ s.LowestFree k) →
    ∃ t, exec (.openContext p) s = .next t ∧
      t = { s.taken with
        buffer := .pending .ok [], contexts := t.contexts, keyers := t.keyers, events := t.events } ∧
      t.ctx i = some c ∧
      (∀ j, j ≠ i → t.ctx j = (s.ctx j).map fun x => x.boundTo j c.partner i) ∧
      (∀ k, c.keyer ≠ some k → t.keyer k = s.keyer k) ∧
      (∀ k, c.keyer = some k → t.keyer k =
        if c.answerHold = some .held then { Keyer.free with bound := some i }
        else
          { Keyer.free with
            bound := some i, output := .keying, position := some 0
            active := some { tone := c.tone, channel := c.channel, state := .probe } }) ∧
      (∀ j : Slot, t.events.change[j] = (s.events.change[j] || j == i || c.partner == some j)) ∧
      t.events.degree = s.events.degree ∧ t.events.link = s.events.link ∧
      t.events.attn = (s.taken.events.attn || s.mask.context)

/-- OPEN and ADOPT on a slot in ENDED: the record goes, with its references (R13, R12, R17, R172), and the
command is taken as on the IDLE slot that is left; a refused one leaves the record as it was. -/
def Obligations.OpenDiscardsTheEndedRecord : Prop :=
  ∀ (s : State) (i : Slot) (c : Context), s.ctx i = some c → c.state = .ended →
    let u := s.discardRecord i
    (u = { s with contexts := u.contexts, links := u.links, events := u.events } ∧
      u.ctx i = none ∧
      (∀ j, j ≠ i → u.ctx j = (s.ctx j).map fun x => x.leftBy j i c.partner) ∧
      (∀ d, u.link d = if d = c.link then (s.link d).forgetting i else s.link d) ∧
      u.events.change[i] = false ∧ u.events.degree = s.events.degree ∧
      u.events.link = s.events.link) ∧
    ∀ p : List Byte, s.part = .run → p.length = 26 → (OpenFields.ofPayload p).slot = i.val →
      (∀ status, State.openRecord p (s.taken.discardRecord i) = .error status →
        exec (.openContext p) s = .next (s.refused status)) ∧
      (∀ b v, State.openRecord p (s.taken.discardRecord i) = .ok (b, v) →
        exec (.openContext p) s = .next (v.accepted b)) ∧
      (∀ status, State.adoptRecord p (s.taken.discardRecord i) = .error status →
        exec (.adopt p) s = .next (s.refused status)) ∧
      ∀ b v, State.adoptRecord p (s.taken.discardRecord i) = .ok (b, v) →
        exec (.adopt p) s = .next (v.accepted b)

/-- An accepted ADOPT on an IDLE slot: the record of R21 and its READ, granted at once on an IDLE link. The
number of sendings is a record of the model (DESIGN CHOICE, log entry 13), and the four fields of a record
that the manual implies are the model's (DEDUCED, log entry 14). -/
def Obligations.AdoptPostsItsRead : Prop :=
  ∀ (p : List Byte) (s : State) (i : Slot) (c : Context), s.part = .run → s.arbiterWaits = false →
    s.Decided → p.length = 26 → (OpenFields.ofPayload p).slot = i.val → s.ctx i = none →
    (∀ r ∈ (s.link c.link).requests, i ∉ r.holders) →
    s.Describes (OpenFields.ofPayload p) c →
    s.ValidPartner (OpenFields.ofPayload p) c.role c.tone c.partner → s.PortFree c → s.ToneFree c →
    c.Fresh → c.state = .adopting → c.atten = .unknown → c.keyer = none →
    c.answerHold = (if c.role = .answer then some .released else none) →
    ∃ t, exec (.adopt p) s = .next t ∧
      t = { s.taken with
        buffer := .pending .ok [], contexts := t.contexts, links := t.links, events := t.events } ∧
      (∀ j, j ≠ i → t.ctx j = (s.ctx j).map fun x => x.boundTo j c.partner i) ∧
      (∀ d, d ≠ c.link → t.link d = s.link d) ∧
      t.events.change[i] = true ∧ (∀ q, c.partner = some q → t.events.change[q] = true) ∧
      t.events.degree = s.events.degree ∧ t.events.link = s.events.link ∧
      ((s.link c.link).state = .idle →
        t.ctx i = some { c with step := some (StepInFlight.mk .read none none none 0) } ∧
        t.link c.link = { s.link c.link with
          state := .busy, number := (s.link c.link).number + 1#8, timer := some 0
          accepted := false, retry := false, lastFrame := (t.link c.link).lastFrame
          sendings := (s.link c.link).sendings + 1
          command := some (LinkCommand.mk .read c.side
            [CommandEntry.mk (some i) c.channel 0 0 .read none 0]) }) ∧
      ((s.link c.link).state ≠ .idle →
        t.ctx i = some { c with flags :=
          { c.flags with linkHold := decide ((s.link c.link).state = .faulted) } } ∧
        t.link c.link = { s.link c.link with
          requests := (s.link c.link).requests ++
            [Request.mk (.single .read i none none 0) .high c.side false false false] })

/-! ## CANCEL, FREE and the reading commands -/

/-- CANCEL by the state of the record (R23), with the keyer that its ending or its COMMISSIONED state frees
(R45). -/
def Obligations.CancelActsByTheState : Prop :=
  ∀ (p : List Byte) (s : State), s.part = .run → p.length = 2 →
    (63 < fieldAt p 0 → exec (.cancel p) s = .next (s.refused .badField)) ∧
    ∀ i : Slot, fieldAt p 0 = i.val →
      (s.ctx i = none → exec (.cancel p) s = .next (s.refused .wrongState)) ∧
      ∀ c, s.ctx i = some c →
        (c.state = .ended → exec (.cancel p) s = .next (s.refused .wrongState)) ∧
        (c.state = .withdrawing → exec (.cancel p) s = .next (s.taken.accepted [])) ∧
        (c.state = .armed ∨ c.state = .adopting → ∃ t d, exec (.cancel p) s = .next t ∧
          t.still = { s.still with buffer := .pending .ok [] } ∧ t.ctx i = some d ∧
          d.state = .ended ∧ d.outcome = some .cancelled ∧
          d.portClosed = some (decide (c.atten = .blocked)) ∧ d.keyer = none ∧ s.Frees t i c ∧
          d.identity = c.identity ∧ d.partner = c.partner ∧ t.events.change[i] = true) ∧
        (c.state = .opening ∨ c.state = .following ∨ c.state = .ramping ∨ c.state = .settled ∨
            c.state = .lost → ∃ t d, exec (.cancel p) s = .next t ∧
          t.still = { s.still with buffer := .pending .ok [] } ∧ t.ctx i = some d ∧
          d.state = .withdrawing ∧ d.cause = some .cancelled ∧ d.identity = c.identity ∧
          d.atten = c.atten ∧ t.events.change[i] = true) ∧
        (c.state = .commissioned → ∃ t d, exec (.cancel p) s = .next t ∧
          t.still = { s.still with buffer := .pending .ok [] } ∧ t.ctx i = some d ∧
          d.state = .withdrawing ∧ d.cause = some .cancelled ∧ d.identity = c.identity ∧
          d.keyer = none ∧ s.Frees t i c ∧
          (c.frozen = true → d.frozen = true ∧ d.elapsed = c.elapsed) ∧
          t.events.change[i] = true)

/-- FREE by the state of the record (R24, R17, R172). -/
def Obligations.FreeReturnsTheSlotToIdle : Prop :=
  ∀ (p : List Byte) (s : State), s.part = .run → p.length = 2 →
    (63 < fieldAt p 0 → exec (.free p) s = .next (s.refused .badField)) ∧
    ∀ i : Slot, fieldAt p 0 = i.val →
      (s.ctx i = none → exec (.free p) s = .next (s.refused .wrongState)) ∧
      ∀ c, s.ctx i = some c →
        (c.state ≠ .ended → c.state ≠ .commissioned →
          exec (.free p) s = .next (s.refused .wrongState)) ∧
        (c.state = .ended → c.keyer = none → s.Decided → ∃ t, exec (.free p) s = .next t ∧
          t = { s.taken with
            buffer := .pending .ok [], contexts := t.contexts, links := t.links
            events := t.events } ∧
          t.ctx i = none ∧ (∀ j, j ≠ i → t.ctx j = (s.ctx j).map fun x => x.leftBy j i c.partner) ∧
          (∀ d, t.link d = if d = c.link then (s.link d).forgetting i else s.link d) ∧
          t.events.change[i] = true) ∧
        (c.state = .commissioned → ∃ t, exec (.free p) s = .next t ∧
          t.still = { s.still with buffer := .pending .ok [] } ∧ t.ctx i = none ∧
          t.events.change[i] = true ∧
          (∀ j x, j ≠ i → c.partner = some j → s.ctx j = some x → x.partner = some i →
            ∃ y, t.ctx j = some y ∧ y.partner = none ∧ y.identity = x.identity) ∧
          (c.group = none → s.Decided →
            t = { s.taken with
              buffer := .pending .ok [], contexts := t.contexts, keyers := t.keyers
              links := t.links, events := t.events } ∧
            (∀ j, j ≠ i → t.ctx j = (s.ctx j).map fun x => x.leftBy j i c.partner) ∧
            (∀ k, t.keyer k = if c.keyer = some k then Keyer.free else s.keyer k) ∧
            ∀ d, t.link d = if d = c.link then (s.link d).forgetting i else s.link d))

/-- READ_CONTEXT returns the fields of the record in the order of the Formats section and changes nothing
else (R25, R47). -/
def Obligations.ReadContextReturnsTheRecord : Prop :=
  ∀ (p : List Byte) (s : State), s.part = .run → p.length = 2 →
    (63 < fieldAt p 0 → exec (.readContext p) s = .next (s.refused .badField)) ∧
    ∀ i : Slot, fieldAt p 0 = i.val →
      (s.ctx i = none → exec (.readContext p) s =
        .next (s.taken.accepted (payload16 [i.val, 0, s.events.change[i].toNat]))) ∧
      ∀ c, s.ctx i = some c → exec (.readContext p) s =
        .next (s.taken.accepted (payload16 ([i.val, c.state.code, s.events.change[i].toNat] ++
          c.sentFields (c.keyer.map s.keyer))))

/-- READ_CENSUS returns the tap and its entries from the start index and changes nothing else (R69). That the
mark after an absent T_latest or T_prior is sent as 0 is the model's (DEDUCED, log entry 23). -/
def Obligations.ReadCensusReturnsTheList : Prop :=
  ∀ (p : List Byte) (s : State), s.part = .run → p.length = 6 →
    (31 < fieldAt p 0 ∨ 255 < fieldAt p 1 →
      exec (.readCensus p) s = .next (s.refused .badField)) ∧
    ∀ v : Tap, fieldAt p 0 = v.val →
      (s.present (tapDegree v) = false →
        exec (.readCensus p) s = .next (s.refused .badField)) ∧
      (s.present (tapDegree v) = true → fieldAt p 1 ≤ 255 →
        let listed := (s.tap v).census.filter fun e => decide (fieldAt p 1 ≤ e.tone.val)
        let returned := listed.take (min (fieldAt p 2) 32)
        exec (.readCensus p) s = .next (s.taken.accepted (payload16 (
          [v.val] ++ sentReading (s.tap v).latest ++ sentReading (s.tap v).prior ++
          [(s.tap v).census.length, (decide (s.tae.visit = some v)).toNat,
            sent ((s.tae.queue.idxOf? v).map (· + 1)), listed.length - returned.length,
            returned.length] ++
          returned.flatMap fun e => e.sentFields (s.watched v e.tone)))))

/-- READ_DEGREE returns the degree's configuration, budget, guard, link, flags and LINE_OUT powers and
changes nothing else (R189, R140, R159, R176), for any 32 bits sent for a last D outside them (DESIGN
CHOICE, log entry 10). The mark after an absent T_latest or T_prior is sent as 0 (DEDUCED, log entry 23),
and the parts of a command that is not present as absent (DEDUCED, log entry 27); these are the model's. -/
def Obligations.ReadDegreeReturnsTheDegree : Prop :=
  ∀ (p : List Byte) (s : State), s.part ≠ .restarting → p.length = 2 →
    (7 < fieldAt p 0 → exec (.readDegree p) s = .next (s.refused .badField)) ∧
    ∀ d : Degree, fieldAt p 0 = d.val → ∃ wide : List Nat, wide.length = 2 ∧
      exec (.readDegree p) s = .next (s.taken.accepted (payload16 (
        [d.val] ++
        (if s.present d = true then
          [1, (s.degreeCfg d).launch, (s.degreeCfg d).dropTarget, (s.degreeCfg d).fraction,
            (s.degreeCfg d).floor, (s.degreeCfg d).excursionLevel, (s.degreeCfg d).tResp]
        else [0, 65535, 65535, 65535, 65535, 65535, 65535]) ++
        (s.budget d).sentFields ++ (s.guard d).sentFields wide ++ (s.link d).sentFields ++
        [setField s.events.degree[d].members, setField s.events.link[d].members] ++
        sentReading (s.tap (lineOut d)).latest ++ sentReading (s.tap (lineOut d)).prior)))

/-! ## Events and ATTN -/

/-- TAKE_EVENTS returns the pending flags and clears them (R187). The level ATTN takes when the frame
discards a response is that of the flags before they are cleared: the model's (DEDUCED, log entry 24). -/
def Obligations.TakeEventsReturnsAndClearsTheFlags : Prop :=
  ∀ s : State, s.part ≠ .restarting →
    let slots := allSlots.filter fun i => s.events.change[i]
    let degrees := allDegrees.map fun d => setField s.events.degree[d].members
    let links := allDegrees.map fun d => setField s.events.link[d].members
    exec (.takeEvents []) s = .next
      ({ s.taken with events := { Events.clear with attn := s.taken.events.attn } }.accepted (payload16 (
        [setField [!slots.isEmpty, degrees.any (· != 0), links.any (· != 0)], slots.length] ++
        slots.map Fin.val ++ degrees ++ links)))

/-- SET_ATTN_MASK replaces the enable set and returns it with the pending classes; ATTN does not move
(R188). The level ATTN takes when the frame discards a response is that of the old enable set: the model's
(DEDUCED, log entry 24). -/
def Obligations.SetAttnMaskReplacesTheSet : Prop :=
  ∀ (p : List Byte) (s : State), s.part = .run → p.length = 6 →
    let mask : Classes :=
      { context := decide (fieldAt p 0 ≠ 0), degree := decide (fieldAt p 1 ≠ 0)
        link := decide (fieldAt p 2 ≠ 0) }
    exec (.setAttnMask p) s = .next ({ s.taken with mask := mask }.accepted (payload16
      [setField [mask.context, mask.degree, mask.link],
        setField [allSlots.any fun i => s.events.change[i],
          allDegrees.any fun d => setField s.events.degree[d].members != 0,
          allDegrees.any fun d => setField s.events.link[d].members != 0]]))

/-! ## The response buffer -/

/-- The response buffer: the part builds the response of a command, and a READ transfer clocks it out
(R181, with the frame of the Formats section and ATTN by R188). What is recorded for a READ of no bytes and
for bytes past the marker or the frame is the model's (DESIGN CHOICE, log entry 12). -/
def Obligations.TheResponseBufferIsBuiltAndRead : Prop :=
  (∀ (s : State) (status : Status) (payload : List Byte), s.buffer = .pending status payload →
    let header : List Byte := [BitVec.ofNat 8 status.code, BitVec.ofNat 8 s.part.code,
      BitVec.ofNat 8 (payload.length / 256), BitVec.ofNat 8 payload.length]
    exec .responseReady s = .next { s with buffer := .ready (header ++ payload) }) ∧
  (∀ (s : State) (n : Nat), s.buffer = .empty →
    exec (.responseRead n) s = .next { s with spiOut := if n = 0 then [] else [0xFF#8] }) ∧
  (∀ (s : State) (n : Nat) (status : Status) (payload : List Byte),
    s.buffer = .pending status payload →
    exec (.responseRead n) s = .next { s with spiOut := if n = 0 then [] else [0xFE#8] }) ∧
  ∀ (s : State) (n : Nat) (frame : List Byte), s.buffer = .ready frame →
    (n < frame.length → exec (.responseRead n) s = .next { s with spiOut := frame.take n }) ∧
    (frame.length ≤ n → exec (.responseRead n) s = .next { s with
      spiOut := frame, buffer := .empty, events := { s.events with attn := s.attnLevel } })

/-! ## FORCE_GUARD, LINK_RETRY and RESTART -/

/-- FORCE_GUARD sets or clears FORCED, and the guard state follows (R155, R156, R158). -/
def Obligations.ForceGuardSetsOrClearsForced : Prop :=
  ∀ (p : List Byte) (s : State), s.part = .run → p.length = 4 →
    ((¬ ∃ d : Degree, fieldAt p 0 = d.val ∧ s.present d = true) ∨
        ¬ (fieldAt p 1 = 1 ∨ fieldAt p 1 = 2) →
      exec (.forceGuard p) s = .next (s.refused .badField)) ∧
    ∀ (d : Degree) (forced : Bool), fieldAt p 0 = d.val → s.present d = true →
      fieldAt p 1 = (if forced then 1 else 2) → s.Decided →
      let auto := (s.guard d).auto
      ∃ t, exec (.forceGuard p) s = .next t ∧
        t.buffer = .pending .ok (payload16
          [(auto || forced).toNat, auto.toNat, forced.toNat, (s.guard d).clean]) ∧
        t.guard d = { s.guard d with forced := forced } ∧
        (∀ e, e ≠ d → t.guard e = s.guard e) ∧
        (s.guarded d = (auto || forced) →
          t = { s.taken with buffer := t.buffer, guards := t.guards }) ∧
        (s.guarded d = false → forced = true →
          t.events.degree[d].guardEntered = true ∧ t.budgets = s.budgets ∧
          (∀ e, t.wire e = s.wire e) ∧
          ∀ r ∈ (t.link d).requests, r.spanCharged = true → r.guardHold = true) ∧
        (s.guarded d = true → (auto || forced) = false →
          t.events.degree[d].guardLeft = true ∧
          Budget.Spends
            { s.budget d with window := some (Window.start s.cfg (s.degreeCfg d) .guardExit
              (readPower (s.tap (lineOut d)).latest)) }
            (t.budget d) ∧
          ∀ e, e ≠ d → Budget.Spends (s.budget e) (t.budget e))

/-- LINK_RETRY sends the command of a FAULTED link once more (R175, R174). The number of sendings is a record
of the model (DESIGN CHOICE, log entry 13). -/
def Obligations.LinkRetrySendsTheHeldCommand : Prop :=
  ∀ (p : List Byte) (s : State), s.part = .run → p.length = 2 →
    ((¬ ∃ d : Degree, fieldAt p 0 = d.val ∧ s.present d = true) →
      exec (.linkRetry p) s = .next (s.refused .badField)) ∧
    ∀ d : Degree, fieldAt p 0 = d.val → s.present d = true →
      ((s.link d).state = .idle ∨ (s.link d).state = .busy ∨ (s.link d).state = .retrying →
        exec (.linkRetry p) s = .next (s.refused .wrongState)) ∧
      ((s.link d).state = .faulted → ∃ t, exec (.linkRetry p) s = .next t ∧
        t.still = { s.still with buffer := .pending .ok (payload16 [3]) } ∧
        t.link d = { s.link d with
          state := .retrying, timer := some 0, sendings := (s.link d).sendings + 1 } ∧
        (∀ e, e ≠ d → t.link e = s.link e) ∧ t.budgets = s.budgets ∧ t.keyers = s.keyers ∧
        (∀ i, sameSlot Context.Calmly (s.ctx i) (t.ctx i)) ∧
        ∀ i c, s.ctx i = some c → c.link = d →
          ∃ x, t.ctx i = some x ∧ x.flags.linkHold = false)

/-- RESTART: with every link quiet the part clears and returns to RUN at once; otherwise it is RESTARTING, and
a held command is dropped (R184, R178, R72). The marks of what is due (DEDUCED, log entry 3), the count of
visits (DEDUCED, log entry 14) and what a link has sent (DESIGN CHOICE, log entry 13) are records of the
model. -/
def Obligations.RestartClearsOrWaitsForTheLinks : Prop :=
  ∀ s : State, s.part = .run →
    ((∀ d, (s.link d).command = none) → (∀ d, (s.link d).state ≠ .faulted) →
      (∀ d, 1 ≤ (s.degreeCfg d).floor) →
      ∃ t, exec (.restart []) s = .next t ∧ s.Cleared t ∧ t.buffer = .pending .ok []) ∧
    ((∃ d, (s.link d).command ≠ none) → (∀ d, (s.link d).state ≠ .faulted) →
      exec (.restart []) s = .next { s.taken with
        buffer := .pending .ok [], part := .restarting
        tae := { s.tae with visit := none, ended := false } }) ∧
    ∃ t, exec (.restart []) s = .next t ∧ t.buffer = .pending .ok [] ∧
      ∀ d, (s.link d).state = .faulted → (s.link d).command ≠ none →
        (t.link d).command = none ∧ (t.link d).timer = none ∧ (t.link d).state ≠ .faulted

/-- RESTART_COMPLETE: the part RESTARTING with every link quiet clears and returns to RUN (R184); with a
command still on a link, or in another part state, the event is not due and has no effect (DESIGN CHOICE, log
entry 2). The marks of what is due (DEDUCED, log entry 3), the count of visits (DEDUCED, log entry 14) and
what a link has sent (DESIGN CHOICE, log entry 13) are records of the model. -/
def Obligations.RestartCompletesWhenLinksAreQuiet : Prop :=
  ∀ s : State,
    (s.part = .restarting → (∀ d, (s.link d).command = none) →
      (∀ d, 1 ≤ (s.degreeCfg d).floor) →
      ∃ t, exec .restartComplete s = .next t ∧ s.Cleared t ∧ t.buffer = s.buffer) ∧
    ((s.part ≠ .restarting ∨ ∃ d, (s.link d).command ≠ none) → exec .restartComplete s = .next s)

/-- The RESET pin clears the part, configuration included (R28, R48, R71, R141, R160, R177, R180, R185). The
links keep their command number; what they sent last and what an SPI transfer clocked out are records of the
model (log entries 12, 13), and the queue of commands is outside the part (log entry 1). The marks of what is
due and the count of visits are the model's too (DEDUCED, log entries 3, 14). -/
def Obligations.ResetPinClearsThePart : Prop :=
  ∀ s : State, ∃ t, exec .resetPin s = .next t ∧ t.Bare ∧
    t.part = .unconfigured ∧ t.buffer = .empty ∧ t.pending = s.pending ∧
    t.timebase = { ms := 0, frameDue := false, secondDue := false } ∧
    (∀ d, (t.link d).number = (s.link d).number ∧ (t.link d).state = .idle ∧
      (t.link d).command = none ∧ (t.link d).requests = [] ∧ (t.link d).timer = none ∧
      (t.link d).accepted = false ∧ (t.link d).retry = false ∧ (t.link d).lastRefusal = none) ∧
    t.events.attn = false ∧ t.mask = { context := false, degree := false, link := false } ∧
    (∀ k, t.keyer k = Keyer.mk none .silent none none none 0) ∧
    (∀ d, t.guard d = Guard.mk false false 0 0 .none none ∧ (t.budget d).window = none) ∧
    (∀ v, t.tap v = { latest := none, prior := none, census := [] }) ∧
    t.tae.queue = [] ∧ t.tae.priorityRun = 0 ∧ t.tae.scanPointer = none ∧ t.tae.visit = none

/-- The part right after reset, and the invariants there. The queue, the marks of what is due, what a link has
sent and the count of visits are the model's (log entries 1, 3, 13, 14). -/
def Obligations.ResetMeetsTheInvariants : Prop :=
  State.reset.Bare ∧ State.reset.part = .unconfigured ∧ State.reset.buffer = .empty ∧
    State.reset.pending = [] ∧
    State.reset.QueueInv ∧ State.reset.CensusInv ∧ State.reset.BudgetInv ∧ State.reset.LinkInv ∧
    State.reset.ClaimsInv ∧ State.reset.PartnersInv ∧ State.reset.KeyersInv ∧
    State.reset.FieldsInv ∧ State.reset.BareInv

/-! ## The Timebase -/

/-- A 1 ms tick: the count, the frame tick at every 256th and the 1 s tick at every 1000th (R180), and the
response timers (R173), which stop at T_resp until the timeout is taken (DESIGN CHOICE, log entry 4).
The marks of ticks that are due are the model's (log entry 3). -/
def Obligations.MillisecondTickCounts : Prop :=
  ∀ s : State, ∃ t, exec .msTick s = .next t ∧
    t = { s with timebase := t.timebase, links := t.links } ∧
    t.timebase.ms = s.timebase.ms + 1 ∧
    (t.timebase.frameDue = true ↔
      s.timebase.frameDue = true ∨ (s.timebase.ms + 1) % 256 = 0) ∧
    (t.timebase.secondDue = true ↔
      s.timebase.secondDue = true ∨ (s.timebase.ms + 1) % 1000 = 0) ∧
    ∀ d, t.link d = { s.link d with timer := (s.link d).timer.map fun n =>
      if n < (s.degreeCfg d).tResp then n + 1 else n }

/-- A 1 s tick that is due: in RUN elapsed counts in the states of R26 and linger counts down (R43); otherwise
nothing counts (R29, R49). A SECOND_TICK that is not due has no effect: the model's (DESIGN CHOICE, log entry
2). -/
def Obligations.SecondTickCountsElapsedAndLinger : Prop :=
  ∀ s : State,
    (s.timebase.secondDue = false → exec .secondTick s = .next s) ∧
    (s.timebase.secondDue = true → s.part ≠ .run →
      exec .secondTick s = .next { s with timebase := { s.timebase with secondDue := false } }) ∧
    (s.timebase.secondDue = true → s.part = .run → ∃ t, exec .secondTick s = .next t ∧
      t = { s with
        timebase := { s.timebase with secondDue := false }
        contexts := t.contexts, keyers := t.keyers } ∧
      (∀ i, s.ctx i = none → t.ctx i = none) ∧
      (∀ i c, s.ctx i = some c → c.state ≠ .commissioned → c.state ≠ .ended → c.frozen = false →
        t.ctx i = some { c with elapsed := min 65535 (c.elapsed + 1) }) ∧
      (∀ i c, s.ctx i = some c → c.state = .commissioned ∨ c.state = .ended ∨ c.frozen = true →
        t.ctx i = some c) ∧
      ∀ k, t.keyer k =
        if (s.keyer k).output = .linger then
          { s.keyer k with lingerCount := (s.keyer k).lingerCount - 1 }
        else s.keyer k)

/-- A frame tick that is due: in RUN frames left of every window decreases by one, and the tick at which it
would become 0 is the boundary (R131); the visit ends at it (R51). The boundary and the visit end are
taken as commands of their own (DEDUCED, log entry 3). A FRAME_TICK that is not due has no effect (DESIGN
CHOICE, log entry 2). Both are the model's. -/
def Obligations.FrameTickCountsTheWindows : Prop :=
  ∀ s : State,
    (s.timebase.frameDue = false → exec .frameTick s = .next s) ∧
    (s.timebase.frameDue = true → s.part ≠ .run →
      exec .frameTick s = .next { s with timebase := { s.timebase with frameDue := false } }) ∧
    (s.timebase.frameDue = true → s.part = .run → ∃ t, exec .frameTick s = .next t ∧
      t = { s with
        timebase := { s.timebase with frameDue := false }, budgets := t.budgets
        tae := { s.tae with ended := true } } ∧
      ∀ d,
        ((s.budget d).window = none → t.budget d = s.budget d) ∧
        ∀ w, (s.budget d).window = some w →
          (1 < w.framesLeft → t.budget d =
            { s.budget d with window := some { w with framesLeft := w.framesLeft - 1 } }) ∧
          (w.framesLeft ≤ 1 → t.budget d = { s.budget d with boundaryDue := true }))

/-! ## Deadlines and linger -/

/-- Deadline expiry by the state of the record (R27); one that is not due has no effect (DESIGN CHOICE,
log entry 2). -/
def Obligations.DeadlineExpiryActsByTheState : Prop :=
  ∀ (s : State) (i : Slot),
    (s.part ≠ .run → exec (.deadlineExpiry i) s = .next s) ∧
    (s.ctx i = none → exec (.deadlineExpiry i) s = .next s) ∧
    ∀ c, s.part = .run → s.ctx i = some c →
      (c.elapsed ≠ c.deadline ∨ c.frozen = true ∨ c.state = .commissioned ∨ c.state = .ended ∨
          c.state = .withdrawing → exec (.deadlineExpiry i) s = .next s) ∧
      (c.elapsed = c.deadline → c.frozen = false →
        (c.state = .armed ∨ c.state = .adopting → ∃ t d, exec (.deadlineExpiry i) s = .next t ∧
          t.still = s.still ∧ t.ctx i = some d ∧ d.state = .ended ∧
          d.outcome = some (if c.state = .armed then .deadline else .adoptFailed) ∧
          d.portClosed = some (decide (c.state = .armed ∧ c.atten = .blocked)) ∧
          d.keyer = none ∧ d.identity = c.identity ∧ t.events.change[i] = true) ∧
        (c.state = .opening ∨ c.state = .following ∨ c.state = .ramping ∨ c.state = .settled ∨
            c.state = .lost → ∃ t d, exec (.deadlineExpiry i) s = .next t ∧
          t.still = s.still ∧ t.ctx i = some d ∧ d.state = .withdrawing ∧
          d.cause = some .deadline ∧ d.identity = c.identity ∧ d.atten = c.atten ∧
          t.events.change[i] = true))

/-- Linger expiry frees the keyer and marks its context KEYER_RELEASED (R44); one that is not due has no
effect (DESIGN CHOICE, log entry 2). -/
def Obligations.LingerExpiryFreesTheKeyer : Prop :=
  ∀ (s : State) (k : KeyerNo),
    (s.part ≠ .run ∨ (s.keyer k).output ≠ .linger ∨ (s.keyer k).lingerCount ≠ 0 →
      exec (.lingerExpiry k) s = .next s) ∧
    ∀ i c, s.part = .run → (s.keyer k).output = .linger → (s.keyer k).lingerCount = 0 →
      (s.keyer k).bound = some i → s.ctx i = some c → c.keyer = some k →
      ∃ t, exec (.lingerExpiry k) s = .next t ∧
        t = { s with keyers := t.keyers, contexts := t.contexts, events := t.events } ∧
        t.keyer k = Keyer.mk none .silent none none none 0 ∧
        (∀ j, j ≠ k → t.keyer j = s.keyer j) ∧
        t.ctx i = some { c with keyer := none, flags := { c.flags with keyerReleased := true } } ∧
        (∀ j, j ≠ i → t.ctx j = s.ctx j) ∧
        (c.flags.keyerReleased = false → t.events.change[i] = true ∧
          t.events.attn = (s.events.attn || s.mask.context)) ∧
        (∀ j, j ≠ i → t.events.change[j] = s.events.change[j]) ∧
        t.events.degree = s.events.degree ∧ t.events.link = s.events.link

/-! ## Symbols -/

/-- A keyer sends the symbols of its active word in turn, and at the word boundary a staged word becomes
the active word (R37, R41). That a SYMBOL_ADVANCE at position 23 makes the boundary is the model's
(DEDUCED, log entry 20), and so is that a WORD_BOUNDARY below position 23 has no effect (DESIGN CHOICE, log
entry 2). -/
def Obligations.KeyersAdvanceAndTakeStagedWords : Prop :=
  ∀ (s : State) (k : KeyerNo),
    ((s.keyer k).output = .silent ∨ (s.keyer k).position = none →
      exec (.symbolAdvance k) s = .next s ∧ exec (.wordBoundary k) s = .next s) ∧
    ∀ n, (s.keyer k).output ≠ .silent → (s.keyer k).position = some n →
      (n < 23 → exec (.wordBoundary k) s = .next s ∧ ∃ t, exec (.symbolAdvance k) s = .next t ∧
        t = { s with keyers := t.keyers } ∧
        t.keyer k = { s.keyer k with position := some (n + 1) } ∧
        ∀ j, j ≠ k → t.keyer j = s.keyer j) ∧
      (n = 23 → ∃ t, exec (.wordBoundary k) s = .next t ∧ exec (.symbolAdvance k) s = .next t ∧
        t = { s with keyers := t.keyers } ∧
        (∀ w, (s.keyer k).staged = some w → t.keyer k =
          { s.keyer k with active := some w, staged := none, position := some 0 }) ∧
        ((s.keyer k).staged = none → t.keyer k = { s.keyer k with position := some 0 }) ∧
        ∀ j, j ≠ k → t.keyer j = s.keyer j)

/-! ## Windows -/

/-- A boundary that is due starts the degree's next window from its LINE_OUT power (R131, R132) and lifts the
budget holds on its link (R138); a decision may then spend of it. A boundary that is not due has no effect
(DESIGN CHOICE, log entry 2). The mark of a boundary that is due is the model's (DEDUCED, log entry 3), and so
is the number of a link's sendings (DESIGN CHOICE, log entry 13). -/
def Obligations.WindowBoundaryStartsAWindow : Prop :=
  ∀ (s : State) (d : Degree),
    (s.part ≠ .run ∨ (s.budget d).boundaryDue = false → exec (.windowBoundary d) s = .next s) ∧
    (s.part = .run → (s.budget d).boundaryDue = true →
      let power := readPower (s.tap (lineOut d)).latest
      let size := max 1 (power * (s.degreeCfg d).fraction / 1024)
      let fresh : Budget :=
        { boundaryDue := false
          window := some
            { framesLeft := s.cfg.window, cause := .boundary, startPower := power
              allowance :=
                if power < (s.degreeCfg d).floor then none
                else some { budget := size, remaining := size } } }
      ∃ t, exec (.windowBoundary d) s = .next t ∧ t.still = s.still ∧
        Budget.Spends fresh (t.budget d) ∧
        (∀ e, e ≠ d → Budget.Spends (s.budget e) (t.budget e)) ∧
        (∀ e, Link.Sends (s.wire e) (t.wire e)) ∧
        (∀ i, sameSlot Context.Turns (s.ctx i) (t.ctx i)) ∧
        (s.Decided → (s.link d).state ≠ .idle → t.budget d = fresh ∧
          (t.link d).requests = (s.link d).requests.map fun r => { r with budgetHold := false }))

/-! ## Visits -/

/-- The visit in progress ends: its tap's total powers move (R58) and the others stay; nothing else but the
contexts, the requests and the Excursion Monitor takes anything from it. A VISIT_END that is not due has no
effect (DESIGN CHOICE, log entry 2). The mark of a visit that has ended is the model's (DEDUCED, log entry 3).
-/
def Obligations.VisitEndMovesTheTotalPowers : Prop :=
  ∀ (s : State) (reading : VisitReading) (moment : ArbiterMoment),
    (s.part ≠ .run ∨ s.tae.ended = false ∨ s.tae.visit = none →
      exec (.visitEnd reading moment) s = .next s) ∧
    ∀ v, s.part = .run → s.tae.ended = true → s.tae.visit = some v →
      ∃ t, exec (.visitEnd reading moment) s = .next t ∧
        (t.tap v).latest =
          some { value := min reading.total 316227, saturated := decide (316227 ≤ reading.total) } ∧
        (t.tap v).prior = (s.tap v).latest ∧
        (∀ u, u ≠ v → t.tap u = s.tap u) ∧
        (316227 ≤ reading.total → t.events.degree[tapDegree v].saturated = true) ∧
        t.tae.ended = false ∧
        t.part = s.part ∧ t.config = s.config ∧ t.timebase = s.timebase ∧ t.buffer = s.buffer ∧
        t.spiOut = s.spiOut ∧ t.mask = s.mask ∧ t.pending = s.pending ∧
        ∀ i, sameSlot Context.Evolves (s.ctx i) (t.ctx i)

/-- What a visit does to the census of its tap (R62 to R64), for a tone that is not evicted: one that is
watched, or on a list with room for every tone the visit heard. That a tone the visit does not list is absent
is the model's (DESIGN CHOICE, log entry 19). -/
def Obligations.VisitEndUpdatesTheCensus : Prop :=
  ∀ (s : State) (reading : VisitReading) (moment : ArbiterMoment) (v : Tap),
    s.part = .run → s.tae.ended = true → s.tae.visit = some v → s.CensusInv →
    let room := (s.tap v).census.length + reading.tones.length ≤ 128
    ∃ t, exec (.visitEnd reading moment) s = .next t ∧
      (∀ e ∈ (s.tap v).census, toneReport s.cfg.presence reading e.tone = none →
        (7 ≤ e.absence → ∀ x ∈ (t.tap v).census, x.tone ≠ e.tone) ∧
        (e.absence < 7 → s.watched v e.tone = true ∨ room →
          { e with absence := e.absence + 1, presence := 0, stable := 0 } ∈ (t.tap v).census)) ∧
      (∀ e ∈ (s.tap v).census, ∀ power decoded,
        toneReport s.cfg.presence reading e.tone = some ⟨power, decoded⟩ →
        s.watched v e.tone = true ∨ room →
        let stable := (max power e.latest - min power e.latest) * 1024 ≤
          e.latest * stabilityFactor s.cfg.stabilityLevel
        ∃ x ∈ (t.tap v).census, x.tone = e.tone ∧ x.latest = power ∧ x.prior = e.latest ∧
          x.presence = min 255 (e.presence + 1) ∧ x.absence = 0 ∧
          (stable → x.stable = min 15 (e.stable + 1)) ∧ (¬ stable → x.stable = 0) ∧
          (∀ w, decoded = some w → x.decoded = some w ∧ x.lastDecoded = true ∧ x.undecoded = 0) ∧
          (decoded = none → x.decoded = e.decoded ∧ x.lastDecoded = false ∧
            x.undecoded = min 15 (e.undecoded + 1))) ∧
      ∀ tone power decoded, toneReport s.cfg.presence reading tone = some ⟨power, decoded⟩ →
        (∀ e ∈ (s.tap v).census, e.tone ≠ tone) → room →
        ∃ x ∈ (t.tap v).census, x.tone = tone ∧ x.latest = power ∧ x.prior = 0 ∧ x.presence = 1 ∧
          x.absence = 0 ∧ x.stable = 0 ∧ x.decoded = decoded ∧
          x.lastDecoded = decoded.isSome ∧ x.undecoded = if decoded.isSome then 0 else 1

/-- The excursion test at the end of a LINE_OUT visit, with AUTO and the guard state after it (R152 to R154,
R156, R158). -/
def Obligations.VisitEndTestsForAnExcursion : Prop :=
  ∀ (s : State) (reading : VisitReading) (moment : ArbiterMoment) (v : Tap),
    s.part = .run → s.tae.ended = true → s.tae.visit = some v →
    ∃ t, exec (.visitEnd reading moment) s = .next t ∧
      (∀ d, v ≠ lineOut d → t.guard d = s.guard d) ∧
      ∀ d, v = lineOut d →
        let prior := readPower (s.tap v).latest
        let D : Int := (min reading.total 316227 : Nat) - (prior : Int) - (s.guard d).expected
        let limit := prior * excursionFactor (s.degreeCfg d).excursionLevel
        let outcome : LastTest :=
          if 316227 ≤ reading.total then .saturated
          else if prior < (s.degreeCfg d).floor then .skipped
          else if min D.natAbs 316227 * 1024 > limit then .excursion
          else .clean
        (t.guard d).expected = 0 ∧ (t.guard d).lastTest = outcome ∧
        (t.guard d).forced = (s.guard d).forced ∧
        (t.guard d).lastD =
          (if outcome = .excursion ∨ outcome = .clean then some D else (s.guard d).lastD) ∧
        (outcome = .excursion ∨ outcome = .saturated →
          (t.guard d).auto = true ∧ (t.guard d).clean = 0) ∧
        (outcome = .clean ∨ outcome = .skipped → (s.guard d).auto = true →
          ((s.guard d).clean + 1 < s.cfg.guardExit →
            (t.guard d).auto = true ∧ (t.guard d).clean = (s.guard d).clean + 1) ∧
          (s.cfg.guardExit ≤ (s.guard d).clean + 1 →
            (t.guard d).auto = false ∧ (t.guard d).clean = 0)) ∧
        (outcome = .clean ∨ outcome = .skipped → (s.guard d).auto = false →
          (t.guard d).auto = false ∧ (t.guard d).clean = (s.guard d).clean) ∧
        (s.guarded d = false → t.guarded d = true → t.events.degree[d].guardEntered = true) ∧
        (s.guarded d = true → t.guarded d = false → t.events.degree[d].guardLeft = true ∧
          Budget.Spends
            { s.budget d with window := some (Window.start s.cfg (s.degreeCfg d) .guardExit
              (min reading.total 316227)) }
            (t.budget d))

/-- R53, R56, R57: after a visit the LINE_OUT taps of the guarded degrees are enqueued, and the queue's head
is visited while the priority run is below 3, or else the round robin's tap. R70: the scan starts on the
lowest scanned tap; a SCAN_START that is not due has no effect (DESIGN CHOICE, log entry 2). The mark of a
visit that has ended and the count of visits are the model's (DEDUCED, log entries 3, 14). -/
def Obligations.TheNextVisitIsChosen : Prop :=
  (∀ (s : State) (reading : VisitReading) (moment : ArbiterMoment) (v : Tap),
    s.part = .run → s.tae.ended = true → s.tae.visit = some v → (∃ d, s.present d = true) →
    ∃ t, exec (.visitEnd reading moment) s = .next t ∧
      let due := (allDegrees.filter fun d => t.guarded d && lineOut d != v).map lineOut
      let queue := due.foldl (fun q u => if q.contains u then q else q ++ [u]) s.tae.queue
      (∀ u rest, queue = u :: rest → s.tae.priorityRun < 3 →
        t.tae.visit = some u ∧ t.tae.queue = rest ∧
        t.tae.priorityRun = s.tae.priorityRun + 1 ∧ t.tae.scanPointer = s.tae.scanPointer) ∧
      (queue = [] ∨ 3 ≤ s.tae.priorityRun → ∃ u, t.tae.visit = some u ∧
        t.tae.scanPointer = some u ∧ t.tae.queue = queue ∧ t.tae.priorityRun = 0 ∧
        s.present (tapDegree u) = true ∧
        ∀ x, s.present (tapDegree x) = true →
          (s.tae.scanPointer = none → u ≤ x) ∧
          ∀ q, s.tae.scanPointer = some q →
            (q < u → q < x → u ≤ x) ∧ (u ≤ q → x ≤ q ∧ u ≤ x))) ∧
  ∀ s : State,
    (s.part ≠ .run ∨ s.tae.ended = false ∨ s.tae.visit ≠ none → exec .scanStart s = .next s) ∧
    ∀ d : Degree, s.part = .run → s.tae.ended = true → s.tae.visit = none →
      s.tae.scanPointer = none → s.present d = true → (∀ e, e < d → s.present e = false) →
      exec .scanStart s = .next { s with tae := { s.tae with
        visit := some (lineIn d), scanPointer := some (lineIn d), priorityRun := 0
        visits := s.tae.visits + 1, ended := false } }

/-! ## Switch links -/

/-- A transfer that is not a command has no effect (R181). A reply frame that fails its check and a reply
that is not matched are discarded, and an ACCEPT that is matched sets the accepted mark and changes
nothing else (R169). -/
def Obligations.RepliesThatDoNotMatchAreDiscarded : Prop :=
  (∀ (transfer : List Byte) (s : State), exec (.writeIncomplete transfer) s = .next s) ∧
  (∀ (d : Degree) (frame : List Byte) (s : State), exec (.replyDiscarded d frame) s = .next s) ∧
  ∀ (s : State) (d : Degree) (n value : Byte),
    ((s.link d).command = none ∨ (s.link d).number ≠ n →
      exec (.linkAccept d n) s = .next s ∧ exec (.linkDone d n value) s = .next s ∧
      exec (.linkRefuse d n value) s = .next s) ∧
    ((s.link d).command ≠ none → (s.link d).number = n → ∃ t, exec (.linkAccept d n) s = .next t ∧
      t = { s with links := t.links } ∧ t.link d = { s.link d with accepted := true } ∧
      ∀ e, e ≠ d → t.link e = s.link e)

/-- A DONE that is matched, in RUN (R170): the records that wait take the attenuation (R5), the expected
change is added (R152), the measure taps are enqueued (R55), and the link is IDLE, where a decision may send
the next command. A link that is IDLE holds no command (R162), and a record in ARMED has no step in flight
(R167). A value that the Formats section does not give for the command is discarded (DEDUCED, log entry 25).
The visit a DONE is dated by (DEDUCED, log entry 14) and the number of a link's sendings (DESIGN CHOICE, log
entry 13) are records of the model. -/
def Obligations.LinkDoneCompletesTheCommand : Prop :=
  ∀ (s : State) (d : Degree) (value : Byte) (cmd : LinkCommand),
    (s.link d).command = some cmd →
    (doneValue cmd.kind value = none →
      exec (.linkDone d (s.link d).number value) s = .next s) ∧
    ∀ read, doneValue cmd.kind value = some read →
      (s.part = .restarting → ∃ t, exec (.linkDone d (s.link d).number value) s = .next t ∧
        s.Drops t d cmd ∧ (t.link d).lastRefusal = (s.link d).lastRefusal) ∧
      (s.part = .run → (s.link d).state ≠ .idle → (cmd.entries.filterMap (·.slot)).Nodup →
        ∃ t, exec (.linkDone d (s.link d).number value) s = .next t ∧
          (let taps := cmd.entries.filterMap fun e => (e.slot.bind s.ctx).map Context.measureTap
           let q := taps.foldl (fun q u => if q.contains u then q else q ++ [u]) s.tae.queue
           t.tae = { s.tae with queue := q }) ∧
          (let sum := (s.guard d).expected + (cmd.entries.map s.entryChange).sum
           t.guard d = { s.guard d with expected := max (-2147483648) (min 2147483647 sum) }) ∧
          (∀ e, e ≠ d → t.guard e = s.guard e) ∧
          t.part = s.part ∧ t.config = s.config ∧ t.timebase = s.timebase ∧ t.buffer = s.buffer ∧
          t.mask = s.mask ∧ t.pending = s.pending ∧
          Link.Sends
            { s.link d with
              state := .idle, command := none, timer := none, accepted := false, retry := false
              requests := [] } (t.wire d) ∧
          (∀ e, e ≠ d → Link.Sends (s.wire e) (t.wire e)) ∧
          ((s.link d).retry = true → t.events.link[d].recovered = true) ∧
          (∀ e ∈ cmd.entries, ∀ i c, e.slot = some i → s.ctx i = some c → c.step.isSome = true →
            c.state ≠ .armed →
            ∃ x, t.ctx i = some x ∧ x.identity = c.identity ∧ x.atten = e.written read ∧
              x.doneAt = some s.tae.visits) ∧
          (∀ e ∈ cmd.entries, ∀ i c, e.slot = some i → s.ctx i = some c → c.step = none →
            c.state = .ended →
            ∃ x, t.ctx i = some x ∧ x.atten = c.atten ∧ x.state = .ended ∧
              x.flags.lateReply = true) ∧
          ∀ i, (∀ e ∈ cmd.entries, e.slot ≠ some i) →
            ((s.ctx i).map Context.atten) = ((t.ctx i).map Context.atten))

/-- What one entry of a command adds to the expected change E at its DONE (R152), and the attenuation it
writes (R5). -/
def Obligations.EntriesChangeTheExpectedPower : Prop :=
  ∀ (s : State) (e : CommandEntry),
    (∀ read, (e.kind = .block → e.written read = .blocked) ∧
      (e.kind = .read → e.written read = read) ∧
      (e.kind ≠ .block → e.kind ≠ .read → e.written read = .tenths e.atten)) ∧
    (e.slot = none → s.entryChange e = 0) ∧
    (∀ i, e.slot = some i → s.ctx i = none → s.entryChange e = 0) ∧
    ∀ i c, e.slot = some i → s.ctx i = some c →
      (c.role = .tail → s.entryChange e = 0) ∧
      (c.role ≠ .tail →
        (e.kind = .openPort → s.entryChange e = e.charge) ∧
        (e.kind = .step ∨ e.kind = .groupStep → e.direction = some .down →
          s.entryChange e = e.charge) ∧
        (e.kind = .step → e.direction = some .up → s.entryChange e = -(e.charge : Int)) ∧
        (e.kind = .withdrawStep → s.entryChange e = -(e.charge : Int)) ∧
        (e.kind = .block → s.entryChange e = -((c.lastPower.getD 0 : Nat) : Int)) ∧
        (e.kind = .read → s.entryChange e = 0))

/-- A REFUSE that is matched, in RUN (R171): the records that wait keep their attenuation but for a refused
BLOCK, take the reason, and the link records it and is IDLE. A link that is IDLE holds no command (R162), and
a record in ARMED has no step in flight (R167). In RESTARTING the command is completed and the steps in flight
it carried clear, with no record, expected change, visit or flag written (R178). The number of a link's
sendings is a record of the model (DESIGN CHOICE, log entry 13). -/
def Obligations.LinkRefuseCompletesTheCommand : Prop :=
  ∀ (s : State) (d : Degree) (reason : Byte) (cmd : LinkCommand),
    (s.link d).command = some cmd → reason.toNat ≤ 15 →
    (s.part = .restarting → ∃ t, exec (.linkRefuse d (s.link d).number reason) s = .next t ∧
      s.Drops t d cmd) ∧
    (s.part = .run → (s.link d).state ≠ .idle → (cmd.entries.filterMap (·.slot)).Nodup →
      ∃ t, exec (.linkRefuse d (s.link d).number reason) s = .next t ∧
        t.tae = s.tae ∧ t.guards = s.guards ∧
        t.part = s.part ∧ t.config = s.config ∧ t.timebase = s.timebase ∧ t.buffer = s.buffer ∧
        t.mask = s.mask ∧ t.pending = s.pending ∧
        Link.Sends
          { s.link d with
            state := .idle, command := none, timer := none, accepted := false, retry := false
            lastRefusal := some reason.toNat, requests := [] } (t.wire d) ∧
        (∀ e, e ≠ d → Link.Sends (s.wire e) (t.wire e)) ∧
        ((s.link d).retry = true → t.events.link[d].recovered = true) ∧
        ∀ e ∈ cmd.entries, ∀ i c, e.slot = some i → s.ctx i = some c → c.step.isSome = true →
          c.state ≠ .armed →
          ∃ x, t.ctx i = some x ∧ x.identity = c.identity ∧ x.switchReason = some reason.toNat ∧
            x.atten = if e.kind = .block then .unknown else c.atten)

/-- A response timeout: a BUSY link sends its command again, a RETRYING one is FAULTED with LINK_FAULT set
(R173, R174), and in RESTARTING the command is dropped with its steps in flight (R178, R29). A
RESPONSE_TIMEOUT that is not due has no effect (DESIGN CHOICE, log entry 2), and the number of sendings is a
record of the model (DESIGN CHOICE, log entry 13). -/
def Obligations.ResponseTimeoutResendsOrFaults : Prop :=
  ∀ (s : State) (d : Degree),
    ((s.link d).timer ≠ some (s.degreeCfg d).tResp → exec (.responseTimeout d) s = .next s) ∧
    ((s.link d).timer = some (s.degreeCfg d).tResp →
      (s.part ≠ .restarting → (s.link d).state = .busy → ∃ t,
        exec (.responseTimeout d) s = .next t ∧ t.still = s.still ∧
        t.link d = { s.link d with
          state := .retrying, timer := some 0, sendings := (s.link d).sendings + 1 } ∧
        (∀ e, e ≠ d → t.link e = s.link e) ∧ t.budgets = s.budgets ∧ t.keyers = s.keyers ∧
        ∀ i, sameSlot Context.Calmly (s.ctx i) (t.ctx i)) ∧
      (s.part ≠ .restarting → (s.link d).state = .retrying → ∃ t,
        exec (.responseTimeout d) s = .next t ∧
        t.link d = { s.link d with state := .faulted, timer := none, retry := true } ∧
        (∀ e, e ≠ d → t.link e = s.link e) ∧ t.budgets = s.budgets ∧ t.keyers = s.keyers ∧
        t.tae = s.tae ∧ t.guards = s.guards ∧ t.part = s.part ∧ t.config = s.config ∧
        t.timebase = s.timebase ∧ t.buffer = s.buffer ∧ t.mask = s.mask ∧ t.pending = s.pending ∧
        t.events.link[d].fault = true ∧
        (∀ i, sameSlot Context.Calmly (s.ctx i) (t.ctx i)) ∧
        ∀ i c, s.ctx i = some c → c.link = d →
          (c.step.isSome = true ∨ ∃ r ∈ (s.link d).requests, i ∈ r.holders) →
          ∃ x, t.ctx i = some x ∧ x.flags.linkHold = true) ∧
      (s.part = .restarting → ∀ cmd, (s.link d).command = some cmd → ∃ t,
        exec (.responseTimeout d) s = .next t ∧ t.still = s.still ∧
        t.link d = { s.link d with
          state := .idle, command := none, timer := none, accepted := false, retry := false } ∧
        (∀ e, e ≠ d → t.link e = s.link e) ∧ t.budgets = s.budgets ∧ t.keyers = s.keyers ∧
        t.events = s.events ∧
        ∀ e ∈ cmd.entries, ∀ i c, e.slot = some i → s.ctx i = some c →
          ∃ x, t.ctx i = some x ∧ x.step = none ∧ x.state = c.state ∧ x.atten = c.atten ∧
            x.identity = c.identity))

/-! ## Leveling -/

/-- The posting test of a head or follower in RAMPING that is not in a group (R76, R98, R118, R121): a
context in its band settles, and one out of it posts a STEP with the planner's figures in place of the
request it had. -/
def Obligations.PostingTestSettlesOrPostsAStep : Prop :=
  ∀ (s : State) (i : Slot) (c : Context), s.ctx i = some c → c.state = .ramping → c.group = none →
    c.step = none → c.freshHeld = true → c.flags.collision = false → c.heard = false →
    (c.head = false → c.flags.upstreamUnstable = false) →
    let p := c.lastPower.getD 0
    let plan := planStep p (c.target s) c.tTol c.sNom c.atten.level
    (∀ limit, plan = .settle limit → ∃ x, (s.postingTest i true).ctx i = some x ∧
      (x.state = .settled ∨ x.state = .commissioned) ∧ x.identity = c.identity ∧
      (limit = some .short → x.flags.short = true) ∧
      (limit = some .excess → x.flags.excess = true)) ∧
    ∀ direction size, plan = .move direction size →
      (s.postingTest i true).still = s.still ∧ (s.postingTest i true).keyers = s.keyers ∧
      (s.postingTest i true).budgets = s.budgets ∧
      (∀ j, sameSlot Context.Calmly (s.ctx j) ((s.postingTest i true).ctx j)) ∧
      Request.mk
        (.single .step i (some direction) (some size)
          (if c.role = .tail then 0 else stepCharge direction p size))
        (if c.priority = .high then .high else .low) c.side (decide (c.role ≠ .tail)) false
        (decide (c.role ≠ .tail ∧ s.guarded c.link = true)) ∈
        ((s.postingTest i true).link c.link).requests

/-- A group request has the smallest size of its entries, the sum of their charges at it, HIGH level when
an entry has it, and the lowest slot as its position; it is posted when none is pending, every member
in RAMPING is poised and one of them is a brightening candidate (R144). That it is posted by this test
alone, also while a group command is still on the link, is the model's (DEDUCED, log entry 30). -/
def Obligations.GroupRequestsAreFormedFromTheirEntries : Prop :=
  (∀ (s : State) (d : Degree) (g : Nat) (entries : List GroupEntry), entries ≠ [] →
    (∀ e ∈ entries, e.size ≤ 20) →
    let r := s.groupRequest d g entries
    (∃ size, r = Request.mk
        (.group g entries size ((entries.map fun e => max 1 (e.power * stepG size / 4096)).sum))
        (if ∃ e ∈ entries, ∃ c, s.ctx e.slot = some c ∧ c.priority = .high then .high else .low)
        .lineOut true false (s.guarded d) ∧
      (∀ e ∈ entries, size ≤ e.size) ∧ ∃ e ∈ entries, size = e.size) ∧
    (∀ e ∈ entries, r.position ≤ e.slot.val) ∧ ∃ e ∈ entries, r.position = e.slot.val) ∧
  ∀ (s : State) (d : Degree) (g : Nat),
    let member (i : Slot) (c : Context) : Prop :=
      s.ctx i = some c ∧ c.group = some g ∧ c.state = .ramping
    let entries := s.candidateEntries g
    ((s.link d).requestBy (.group g) = none → (∀ i c, member i c → c.poised = true) →
      entries ≠ [] →
      (s.evaluateGroup d g).still = s.still ∧
      s.groupRequest d g entries ∈ ((s.evaluateGroup d g).link d).requests) ∧
    ((s.link d).requestBy (.group g) ≠ none ∨ (∃ i c, member i c ∧ c.poised = false) ∨
      entries = [] → s.evaluateGroup d g = s)

/-- A decision on an IDLE link grants an URGENT BLOCK of a LOST or WITHDRAWING context before any other
request (R166, R167): the link sends the BLOCK under the next number, and no budget is drawn on. -/
def Obligations.UrgentBlockIsGrantedFirst : Prop :=
  ∀ (s : State) (d : Degree) (i : Slot) (c : Context) (r : Request), s.part = .run →
    s.ctx i = some c → c.state = .lost ∨ c.state = .withdrawing → c.link = d →
    (s.link d).state = .idle → r ∈ (s.link d).requests →
    r = Request.mk (.single .block i none none 0) .urgent c.side false false false →
    (∀ q ∈ (s.link d).requests, q = r ∨
      i ∉ q.holders ∧ (q.level ≠ .urgent ∨ i.val < q.position)) →
    let t := s.decision d ((ranked (s.link d).requests).map Request.key)
    (t.link d).state = .busy ∧ (t.link d).number = (s.link d).number + 1#8 ∧
      (t.link d).timer = some 0 ∧
      (t.link d).command = some (LinkCommand.mk .block c.side
        [CommandEntry.mk (some i) c.channel 0 0 .block none 0]) ∧
      t.budgets = s.budgets ∧ r ∉ (t.link d).requests ∧
      ∃ x, t.ctx i = some x ∧ x.state = c.state ∧
        x.step = some (StepInFlight.mk .block none none none 0)

/-! ## Invariants of every step -/

/-- R54, R57, R60: the priority visit queue holds each tap at most once, the priority run stays within its
range, and every census is ascending, within its size and with its counters in range. -/
def Obligations.TheScannerKeepsItsLists : Prop :=
  ∀ s t : State, step s = .next t →
    (s.QueueInv → t.QueueInv) ∧ (s.CensusInv → t.CensusInv)

/-- R130: in every window of every degree frames left, budget and remaining stay in their ranges. -/
def Obligations.BudgetsKeepTheirRanges : Prop :=
  ∀ s t : State, s.BudgetInv → step s = .next t → t.BudgetInv

/-- R162: a link holds a command exactly in BUSY, RETRYING and FAULTED. -/
def Obligations.LinksKeepTheirShape : Prop :=
  ∀ s t : State, s.LinkInv → step s = .next t → t.LinkInv

/-- R15, R16, R38: no two live records own one port or hold one tone claim, and the bindings of partners and
of keyers are mutual. -/
def Obligations.ClaimsAndBindingsStand : Prop :=
  ∀ s t : State, step s = .next t →
    (s.ClaimsInv → t.ClaimsInv) ∧ (s.PartnersInv → t.PartnersInv) ∧ (s.KeyersInv → t.KeyersInv)

/-- The drift count, withdraw cause, outcome and port closed are present in their states alone (R2, R79),
and while the part is UNCONFIGURED it stays as the RESET pin leaves it (R28, R70, R130, R177, R185). That the
withdraw cause is absent in ENDED is the model's (DEDUCED, log entry 18). -/
def Obligations.FieldsAndTheBarePartStand : Prop :=
  ∀ s t : State, step s = .next t →
    (s.FieldsInv → t.FieldsInv) ∧ (s.BareInv → t.BareInv)

/-- R1, R2, R10, R26: over every command but OPEN, ADOPT, FREE, the RESET pin, RESTART, its completion and
the 1 s tick, no record appears or goes, identity fields stay, ENDED is final, and elapsed of a
COMMISSIONED record is frozen. That the withdraw cause is absent in ENDED, among the fields that stay in
their states, is the model's (DEDUCED, log entry 18). -/
def Obligations.RecordsEvolve : Prop :=
  ∀ (c : Instr) (s t : State), exec c s = .next t →
    (∀ p, c ≠ .openContext p) → (∀ p, c ≠ .adopt p) → (∀ p, c ≠ .free p) → (∀ p, c ≠ .restart p) →
    c ≠ .resetPin → c ≠ .restartComplete → c ≠ .secondTick →
    ∀ i, sameSlot Context.Evolves (s.ctx i) (t.ctx i)

/-- R12, R186: outside RESTARTING, over every command but TAKE_EVENTS and those that clear the part, a slot
whose state, condition flags, outcome or partner has changed has its change flag pending. -/
def Obligations.ChangesAreFlagged : Prop :=
  ∀ (c : Instr) (s t : State), exec c s = .next t → s.part ≠ .restarting →
    c ≠ .resetPin → (∀ p, c ≠ .restart p) →
    ∀ i : Slot, (t.ctx i).map Context.shown ≠ (s.ctx i).map Context.shown →
      t.events.change[i] = true

/-- R183: the configuration stays unchanged until the RESET pin, and RESTART keeps it; the part state
moves as R179 gives it. -/
def Obligations.TheConfigurationStays : Prop :=
  ∀ (c : Instr) (s t : State), exec c s = .next t →
    (c ≠ .resetPin → s.part ≠ .unconfigured → t.config = s.config ∧ t.part ≠ .unconfigured) ∧
    (c ≠ .resetPin → (∀ p, c ≠ .configure p) → t.config = s.config) ∧
    (c ≠ .resetPin → (∀ p, c ≠ .configure p) → s.part = .unconfigured → t.part = .unconfigured) ∧
    ((∀ p, c ≠ .restart p) → s.part = .run → t.part = .run ∨ c = .resetPin) ∧
    (s.part = .restarting → t.part = .run → c = .restartComplete)
end

