-- ==== Sys2Proof/Laws/State.lean ====
section
/-! SUPPORT. One lemma for each field under each plain update of the state, and reading a table back. -/

namespace Sys2Proof.Machine

/-! ## Tables -/

@[simp] theorem tabulate_get {α : Type} {n : Nat} (f : Fin n → α) (i : Nat) (h : i < n) :
    (tabulate n f)[i] = f ⟨i, h⟩ := by
  simp [tabulate]

@[simp] theorem mem_allSlots (i : Slot) : i ∈ allSlots := List.mem_finRange i

@[simp] theorem mem_allDegrees (d : Degree) : d ∈ allDegrees := List.mem_finRange d

@[simp] theorem mem_allTaps (t : Tap) : t ∈ allTaps := List.mem_finRange t

@[simp] theorem mem_allKeyers (k : KeyerNo) : k ∈ allKeyers := List.mem_finRange k

@[simp] theorem mem_allTones (t : Tone) : t ∈ allTones := List.mem_finRange t

namespace State

variable (s : State)

/-! ## setKeyer -/

@[simp] theorem setKeyer_part (k : KeyerNo) (v : Keyer) : (s.setKeyer k v).part = s.part := rfl

@[simp] theorem setKeyer_config (k : KeyerNo) (v : Keyer) :
    (s.setKeyer k v).config = s.config := rfl

@[simp] theorem setKeyer_timebase (k : KeyerNo) (v : Keyer) :
    (s.setKeyer k v).timebase = s.timebase := rfl

@[simp] theorem setKeyer_buffer (k : KeyerNo) (v : Keyer) :
    (s.setKeyer k v).buffer = s.buffer := rfl

@[simp] theorem setKeyer_spiOut (k : KeyerNo) (v : Keyer) :
    (s.setKeyer k v).spiOut = s.spiOut := rfl

@[simp] theorem setKeyer_mask (k : KeyerNo) (v : Keyer) : (s.setKeyer k v).mask = s.mask := rfl

@[simp] theorem setKeyer_events (k : KeyerNo) (v : Keyer) :
    (s.setKeyer k v).events = s.events := rfl

@[simp] theorem setKeyer_contexts (k : KeyerNo) (v : Keyer) :
    (s.setKeyer k v).contexts = s.contexts := rfl

@[simp] theorem setKeyer_keyers (k : KeyerNo) (v : Keyer) :
    (s.setKeyer k v).keyers = s.keyers.set k v := rfl

@[simp] theorem setKeyer_tae (k : KeyerNo) (v : Keyer) : (s.setKeyer k v).tae = s.tae := rfl

@[simp] theorem setKeyer_budgets (k : KeyerNo) (v : Keyer) :
    (s.setKeyer k v).budgets = s.budgets := rfl

@[simp] theorem setKeyer_guards (k : KeyerNo) (v : Keyer) :
    (s.setKeyer k v).guards = s.guards := rfl

@[simp] theorem setKeyer_links (k : KeyerNo) (v : Keyer) : (s.setKeyer k v).links = s.links := rfl

@[simp] theorem setKeyer_arbiterWaits (k : KeyerNo) (v : Keyer) :
    (s.setKeyer k v).arbiterWaits = s.arbiterWaits := rfl

@[simp] theorem setKeyer_pending (k : KeyerNo) (v : Keyer) :
    (s.setKeyer k v).pending = s.pending := rfl

/-! ## setTap -/

@[simp] theorem setTap_part (t : Tap) (v : TapRecord) : (s.setTap t v).part = s.part := rfl

@[simp] theorem setTap_config (t : Tap) (v : TapRecord) : (s.setTap t v).config = s.config := rfl

@[simp] theorem setTap_timebase (t : Tap) (v : TapRecord) :
    (s.setTap t v).timebase = s.timebase := rfl

@[simp] theorem setTap_buffer (t : Tap) (v : TapRecord) : (s.setTap t v).buffer = s.buffer := rfl

@[simp] theorem setTap_spiOut (t : Tap) (v : TapRecord) : (s.setTap t v).spiOut = s.spiOut := rfl

@[simp] theorem setTap_mask (t : Tap) (v : TapRecord) : (s.setTap t v).mask = s.mask := rfl

@[simp] theorem setTap_events (t : Tap) (v : TapRecord) : (s.setTap t v).events = s.events := rfl

@[simp] theorem setTap_contexts (t : Tap) (v : TapRecord) :
    (s.setTap t v).contexts = s.contexts := rfl

@[simp] theorem setTap_keyers (t : Tap) (v : TapRecord) : (s.setTap t v).keyers = s.keyers := rfl

@[simp] theorem setTap_tae (t : Tap) (v : TapRecord) :
    (s.setTap t v).tae = { s.tae with taps := s.tae.taps.set t v } := rfl

@[simp] theorem setTap_budgets (t : Tap) (v : TapRecord) : (s.setTap t v).budgets = s.budgets := rfl

@[simp] theorem setTap_guards (t : Tap) (v : TapRecord) : (s.setTap t v).guards = s.guards := rfl

@[simp] theorem setTap_links (t : Tap) (v : TapRecord) : (s.setTap t v).links = s.links := rfl

@[simp] theorem setTap_arbiterWaits (t : Tap) (v : TapRecord) :
    (s.setTap t v).arbiterWaits = s.arbiterWaits := rfl

@[simp] theorem setTap_pending (t : Tap) (v : TapRecord) : (s.setTap t v).pending = s.pending := rfl

/-! ## setBudget -/

@[simp] theorem setBudget_part (d : Degree) (v : Budget) : (s.setBudget d v).part = s.part := rfl

@[simp] theorem setBudget_config (d : Degree) (v : Budget) :
    (s.setBudget d v).config = s.config := rfl

@[simp] theorem setBudget_timebase (d : Degree) (v : Budget) :
    (s.setBudget d v).timebase = s.timebase := rfl

@[simp] theorem setBudget_buffer (d : Degree) (v : Budget) :
    (s.setBudget d v).buffer = s.buffer := rfl

@[simp] theorem setBudget_spiOut (d : Degree) (v : Budget) :
    (s.setBudget d v).spiOut = s.spiOut := rfl

@[simp] theorem setBudget_mask (d : Degree) (v : Budget) : (s.setBudget d v).mask = s.mask := rfl

@[simp] theorem setBudget_events (d : Degree) (v : Budget) :
    (s.setBudget d v).events = s.events := rfl

@[simp] theorem setBudget_contexts (d : Degree) (v : Budget) :
    (s.setBudget d v).contexts = s.contexts := rfl

@[simp] theorem setBudget_keyers (d : Degree) (v : Budget) :
    (s.setBudget d v).keyers = s.keyers := rfl

@[simp] theorem setBudget_tae (d : Degree) (v : Budget) : (s.setBudget d v).tae = s.tae := rfl

@[simp] theorem setBudget_budgets (d : Degree) (v : Budget) :
    (s.setBudget d v).budgets = s.budgets.set d v := rfl

@[simp] theorem setBudget_guards (d : Degree) (v : Budget) :
    (s.setBudget d v).guards = s.guards := rfl

@[simp] theorem setBudget_links (d : Degree) (v : Budget) : (s.setBudget d v).links = s.links := rfl

@[simp] theorem setBudget_arbiterWaits (d : Degree) (v : Budget) :
    (s.setBudget d v).arbiterWaits = s.arbiterWaits := rfl

@[simp] theorem setBudget_pending (d : Degree) (v : Budget) :
    (s.setBudget d v).pending = s.pending := rfl

/-! ## setGuard -/

@[simp] theorem setGuard_part (d : Degree) (v : Guard) : (s.setGuard d v).part = s.part := rfl

@[simp] theorem setGuard_config (d : Degree) (v : Guard) : (s.setGuard d v).config = s.config := rfl

@[simp] theorem setGuard_timebase (d : Degree) (v : Guard) :
    (s.setGuard d v).timebase = s.timebase := rfl

@[simp] theorem setGuard_buffer (d : Degree) (v : Guard) : (s.setGuard d v).buffer = s.buffer := rfl

@[simp] theorem setGuard_spiOut (d : Degree) (v : Guard) : (s.setGuard d v).spiOut = s.spiOut := rfl

@[simp] theorem setGuard_mask (d : Degree) (v : Guard) : (s.setGuard d v).mask = s.mask := rfl

@[simp] theorem setGuard_events (d : Degree) (v : Guard) : (s.setGuard d v).events = s.events := rfl

@[simp] theorem setGuard_contexts (d : Degree) (v : Guard) :
    (s.setGuard d v).contexts = s.contexts := rfl

@[simp] theorem setGuard_keyers (d : Degree) (v : Guard) : (s.setGuard d v).keyers = s.keyers := rfl

@[simp] theorem setGuard_tae (d : Degree) (v : Guard) : (s.setGuard d v).tae = s.tae := rfl

@[simp] theorem setGuard_budgets (d : Degree) (v : Guard) :
    (s.setGuard d v).budgets = s.budgets := rfl

@[simp] theorem setGuard_guards (d : Degree) (v : Guard) :
    (s.setGuard d v).guards = s.guards.set d v := rfl

@[simp] theorem setGuard_links (d : Degree) (v : Guard) : (s.setGuard d v).links = s.links := rfl

@[simp] theorem setGuard_arbiterWaits (d : Degree) (v : Guard) :
    (s.setGuard d v).arbiterWaits = s.arbiterWaits := rfl

@[simp] theorem setGuard_pending (d : Degree) (v : Guard) :
    (s.setGuard d v).pending = s.pending := rfl

/-! ## setLink -/

@[simp] theorem setLink_part (d : Degree) (v : Link) : (s.setLink d v).part = s.part := rfl

@[simp] theorem setLink_config (d : Degree) (v : Link) : (s.setLink d v).config = s.config := rfl

@[simp] theorem setLink_timebase (d : Degree) (v : Link) :
    (s.setLink d v).timebase = s.timebase := rfl

@[simp] theorem setLink_buffer (d : Degree) (v : Link) : (s.setLink d v).buffer = s.buffer := rfl

@[simp] theorem setLink_spiOut (d : Degree) (v : Link) : (s.setLink d v).spiOut = s.spiOut := rfl

@[simp] theorem setLink_mask (d : Degree) (v : Link) : (s.setLink d v).mask = s.mask := rfl

@[simp] theorem setLink_events (d : Degree) (v : Link) : (s.setLink d v).events = s.events := rfl

@[simp] theorem setLink_contexts (d : Degree) (v : Link) :
    (s.setLink d v).contexts = s.contexts := rfl

@[simp] theorem setLink_keyers (d : Degree) (v : Link) : (s.setLink d v).keyers = s.keyers := rfl

@[simp] theorem setLink_tae (d : Degree) (v : Link) : (s.setLink d v).tae = s.tae := rfl

@[simp] theorem setLink_budgets (d : Degree) (v : Link) : (s.setLink d v).budgets = s.budgets := rfl

@[simp] theorem setLink_guards (d : Degree) (v : Link) : (s.setLink d v).guards = s.guards := rfl

@[simp] theorem setLink_links (d : Degree) (v : Link) :
    (s.setLink d v).links = s.links.set d v := rfl

@[simp] theorem setLink_arbiterWaits (d : Degree) (v : Link) :
    (s.setLink d v).arbiterWaits = s.arbiterWaits := rfl

@[simp] theorem setLink_pending (d : Degree) (v : Link) : (s.setLink d v).pending = s.pending := rfl

/-! ## setRecord -/

@[simp] theorem setRecord_part (i : Slot) (c : Option Context) :
    (s.setRecord i c).part = s.part := rfl

@[simp] theorem setRecord_config (i : Slot) (c : Option Context) :
    (s.setRecord i c).config = s.config := rfl

@[simp] theorem setRecord_timebase (i : Slot) (c : Option Context) :
    (s.setRecord i c).timebase = s.timebase := rfl

@[simp] theorem setRecord_buffer (i : Slot) (c : Option Context) :
    (s.setRecord i c).buffer = s.buffer := rfl

@[simp] theorem setRecord_spiOut (i : Slot) (c : Option Context) :
    (s.setRecord i c).spiOut = s.spiOut := rfl

@[simp] theorem setRecord_mask (i : Slot) (c : Option Context) :
    (s.setRecord i c).mask = s.mask := rfl

@[simp] theorem setRecord_events (i : Slot) (c : Option Context) :
    (s.setRecord i c).events = s.events := rfl

@[simp] theorem setRecord_contexts (i : Slot) (c : Option Context) :
    (s.setRecord i c).contexts = s.contexts.set i c := rfl

@[simp] theorem setRecord_keyers (i : Slot) (c : Option Context) :
    (s.setRecord i c).keyers = s.keyers := rfl

@[simp] theorem setRecord_tae (i : Slot) (c : Option Context) : (s.setRecord i c).tae = s.tae := rfl

@[simp] theorem setRecord_budgets (i : Slot) (c : Option Context) :
    (s.setRecord i c).budgets = s.budgets := rfl

@[simp] theorem setRecord_guards (i : Slot) (c : Option Context) :
    (s.setRecord i c).guards = s.guards := rfl

@[simp] theorem setRecord_links (i : Slot) (c : Option Context) :
    (s.setRecord i c).links = s.links := rfl

@[simp] theorem setRecord_arbiterWaits (i : Slot) (c : Option Context) :
    (s.setRecord i c).arbiterWaits = s.arbiterWaits := rfl

@[simp] theorem setRecord_pending (i : Slot) (c : Option Context) :
    (s.setRecord i c).pending = s.pending := rfl

/-! ## setEvents -/

@[simp] theorem setEvents_part (v : Events) : (s.setEvents v).part = s.part := rfl

@[simp] theorem setEvents_config (v : Events) : (s.setEvents v).config = s.config := rfl

@[simp] theorem setEvents_timebase (v : Events) : (s.setEvents v).timebase = s.timebase := rfl

@[simp] theorem setEvents_buffer (v : Events) : (s.setEvents v).buffer = s.buffer := rfl

@[simp] theorem setEvents_spiOut (v : Events) : (s.setEvents v).spiOut = s.spiOut := rfl

@[simp] theorem setEvents_mask (v : Events) : (s.setEvents v).mask = s.mask := rfl

@[simp] theorem setEvents_events (v : Events) : (s.setEvents v).events = v := rfl

@[simp] theorem setEvents_contexts (v : Events) : (s.setEvents v).contexts = s.contexts := rfl

@[simp] theorem setEvents_keyers (v : Events) : (s.setEvents v).keyers = s.keyers := rfl

@[simp] theorem setEvents_tae (v : Events) : (s.setEvents v).tae = s.tae := rfl

@[simp] theorem setEvents_budgets (v : Events) : (s.setEvents v).budgets = s.budgets := rfl

@[simp] theorem setEvents_guards (v : Events) : (s.setEvents v).guards = s.guards := rfl

@[simp] theorem setEvents_links (v : Events) : (s.setEvents v).links = s.links := rfl

@[simp] theorem setEvents_arbiterWaits (v : Events) :
    (s.setEvents v).arbiterWaits = s.arbiterWaits := rfl

@[simp] theorem setEvents_pending (v : Events) : (s.setEvents v).pending = s.pending := rfl

/-! ## enqueue -/

@[simp] theorem enqueue_part (t : Tap) : (s.enqueue t).part = s.part := rfl

@[simp] theorem enqueue_config (t : Tap) : (s.enqueue t).config = s.config := rfl

@[simp] theorem enqueue_timebase (t : Tap) : (s.enqueue t).timebase = s.timebase := rfl

@[simp] theorem enqueue_buffer (t : Tap) : (s.enqueue t).buffer = s.buffer := rfl

@[simp] theorem enqueue_spiOut (t : Tap) : (s.enqueue t).spiOut = s.spiOut := rfl

@[simp] theorem enqueue_mask (t : Tap) : (s.enqueue t).mask = s.mask := rfl

@[simp] theorem enqueue_events (t : Tap) : (s.enqueue t).events = s.events := rfl

@[simp] theorem enqueue_contexts (t : Tap) : (s.enqueue t).contexts = s.contexts := rfl

@[simp] theorem enqueue_keyers (t : Tap) : (s.enqueue t).keyers = s.keyers := rfl

@[simp] theorem enqueue_tae (t : Tap) :
    (s.enqueue t).tae = { s.tae with queue := enqueueTap t s.tae.queue } := rfl

@[simp] theorem enqueue_budgets (t : Tap) : (s.enqueue t).budgets = s.budgets := rfl

@[simp] theorem enqueue_guards (t : Tap) : (s.enqueue t).guards = s.guards := rfl

@[simp] theorem enqueue_links (t : Tap) : (s.enqueue t).links = s.links := rfl

@[simp] theorem enqueue_arbiterWaits (t : Tap) : (s.enqueue t).arbiterWaits = s.arbiterWaits := rfl

@[simp] theorem enqueue_pending (t : Tap) : (s.enqueue t).pending = s.pending := rfl

/-! ## modLink -/

@[simp] theorem modLink_part (d : Degree) (f : Link → Link) : (s.modLink d f).part = s.part := rfl

@[simp] theorem modLink_config (d : Degree) (f : Link → Link) :
    (s.modLink d f).config = s.config := rfl

@[simp] theorem modLink_timebase (d : Degree) (f : Link → Link) :
    (s.modLink d f).timebase = s.timebase := rfl

@[simp] theorem modLink_buffer (d : Degree) (f : Link → Link) :
    (s.modLink d f).buffer = s.buffer := rfl

@[simp] theorem modLink_spiOut (d : Degree) (f : Link → Link) :
    (s.modLink d f).spiOut = s.spiOut := rfl

@[simp] theorem modLink_mask (d : Degree) (f : Link → Link) : (s.modLink d f).mask = s.mask := rfl

@[simp] theorem modLink_events (d : Degree) (f : Link → Link) :
    (s.modLink d f).events = s.events := rfl

@[simp] theorem modLink_contexts (d : Degree) (f : Link → Link) :
    (s.modLink d f).contexts = s.contexts := rfl

@[simp] theorem modLink_keyers (d : Degree) (f : Link → Link) :
    (s.modLink d f).keyers = s.keyers := rfl

@[simp] theorem modLink_tae (d : Degree) (f : Link → Link) : (s.modLink d f).tae = s.tae := rfl

@[simp] theorem modLink_budgets (d : Degree) (f : Link → Link) :
    (s.modLink d f).budgets = s.budgets := rfl

@[simp] theorem modLink_guards (d : Degree) (f : Link → Link) :
    (s.modLink d f).guards = s.guards := rfl

@[simp] theorem modLink_links (d : Degree) (f : Link → Link) :
    (s.modLink d f).links = s.links.set d (f (s.link d)) := rfl

@[simp] theorem modLink_arbiterWaits (d : Degree) (f : Link → Link) :
    (s.modLink d f).arbiterWaits = s.arbiterWaits := rfl

@[simp] theorem modLink_pending (d : Degree) (f : Link → Link) :
    (s.modLink d f).pending = s.pending := rfl

/-! ## setRequests -/

@[simp] theorem setRequests_part (d : Degree) (rs : List Request) :
    (s.setRequests d rs).part = s.part := rfl

@[simp] theorem setRequests_config (d : Degree) (rs : List Request) :
    (s.setRequests d rs).config = s.config := rfl

@[simp] theorem setRequests_timebase (d : Degree) (rs : List Request) :
    (s.setRequests d rs).timebase = s.timebase := rfl

@[simp] theorem setRequests_buffer (d : Degree) (rs : List Request) :
    (s.setRequests d rs).buffer = s.buffer := rfl

@[simp] theorem setRequests_spiOut (d : Degree) (rs : List Request) :
    (s.setRequests d rs).spiOut = s.spiOut := rfl

@[simp] theorem setRequests_mask (d : Degree) (rs : List Request) :
    (s.setRequests d rs).mask = s.mask := rfl

@[simp] theorem setRequests_events (d : Degree) (rs : List Request) :
    (s.setRequests d rs).events = s.events := rfl

@[simp] theorem setRequests_contexts (d : Degree) (rs : List Request) :
    (s.setRequests d rs).contexts = s.contexts := rfl

@[simp] theorem setRequests_keyers (d : Degree) (rs : List Request) :
    (s.setRequests d rs).keyers = s.keyers := rfl

@[simp] theorem setRequests_tae (d : Degree) (rs : List Request) :
    (s.setRequests d rs).tae = s.tae := rfl

@[simp] theorem setRequests_budgets (d : Degree) (rs : List Request) :
    (s.setRequests d rs).budgets = s.budgets := rfl

@[simp] theorem setRequests_guards (d : Degree) (rs : List Request) :
    (s.setRequests d rs).guards = s.guards := rfl

@[simp] theorem setRequests_links (d : Degree) (rs : List Request) :
    (s.setRequests d rs).links = s.links.set d { s.link d with requests := rs } := rfl

@[simp] theorem setRequests_arbiterWaits (d : Degree) (rs : List Request) :
    (s.setRequests d rs).arbiterWaits = s.arbiterWaits := rfl

@[simp] theorem setRequests_pending (d : Degree) (rs : List Request) :
    (s.setRequests d rs).pending = s.pending := rfl

/-! ## modRequest -/

@[simp] theorem modRequest_part (d : Degree) (k : ReqKey) (f : Request → Request) :
    (s.modRequest d k f).part = s.part := rfl

@[simp] theorem modRequest_config (d : Degree) (k : ReqKey) (f : Request → Request) :
    (s.modRequest d k f).config = s.config := rfl

@[simp] theorem modRequest_timebase (d : Degree) (k : ReqKey) (f : Request → Request) :
    (s.modRequest d k f).timebase = s.timebase := rfl

@[simp] theorem modRequest_buffer (d : Degree) (k : ReqKey) (f : Request → Request) :
    (s.modRequest d k f).buffer = s.buffer := rfl

@[simp] theorem modRequest_spiOut (d : Degree) (k : ReqKey) (f : Request → Request) :
    (s.modRequest d k f).spiOut = s.spiOut := rfl

@[simp] theorem modRequest_mask (d : Degree) (k : ReqKey) (f : Request → Request) :
    (s.modRequest d k f).mask = s.mask := rfl

@[simp] theorem modRequest_events (d : Degree) (k : ReqKey) (f : Request → Request) :
    (s.modRequest d k f).events = s.events := rfl

@[simp] theorem modRequest_contexts (d : Degree) (k : ReqKey) (f : Request → Request) :
    (s.modRequest d k f).contexts = s.contexts := rfl

@[simp] theorem modRequest_keyers (d : Degree) (k : ReqKey) (f : Request → Request) :
    (s.modRequest d k f).keyers = s.keyers := rfl

@[simp] theorem modRequest_tae (d : Degree) (k : ReqKey) (f : Request → Request) :
    (s.modRequest d k f).tae = s.tae := rfl

@[simp] theorem modRequest_budgets (d : Degree) (k : ReqKey) (f : Request → Request) :
    (s.modRequest d k f).budgets = s.budgets := rfl

@[simp] theorem modRequest_guards (d : Degree) (k : ReqKey) (f : Request → Request) :
    (s.modRequest d k f).guards = s.guards := rfl

@[simp] theorem modRequest_links (d : Degree) (k : ReqKey) (f : Request → Request) :
    (s.modRequest d k f).links = s.links.set d { s.link d with requests := (s.link d).requests.map fun r => if r.key = k then f r else r } := rfl

@[simp] theorem modRequest_arbiterWaits (d : Degree) (k : ReqKey) (f : Request → Request) :
    (s.modRequest d k f).arbiterWaits = s.arbiterWaits := rfl

@[simp] theorem modRequest_pending (d : Degree) (k : ReqKey) (f : Request → Request) :
    (s.modRequest d k f).pending = s.pending := rfl

/-! ## modKeyer -/

@[simp] theorem modKeyer_part (k : KeyerNo) (f : Keyer → Keyer) :
    (s.modKeyer k f).part = s.part := rfl

@[simp] theorem modKeyer_config (k : KeyerNo) (f : Keyer → Keyer) :
    (s.modKeyer k f).config = s.config := rfl

@[simp] theorem modKeyer_timebase (k : KeyerNo) (f : Keyer → Keyer) :
    (s.modKeyer k f).timebase = s.timebase := rfl

@[simp] theorem modKeyer_buffer (k : KeyerNo) (f : Keyer → Keyer) :
    (s.modKeyer k f).buffer = s.buffer := rfl

@[simp] theorem modKeyer_spiOut (k : KeyerNo) (f : Keyer → Keyer) :
    (s.modKeyer k f).spiOut = s.spiOut := rfl

@[simp] theorem modKeyer_mask (k : KeyerNo) (f : Keyer → Keyer) :
    (s.modKeyer k f).mask = s.mask := rfl

@[simp] theorem modKeyer_events (k : KeyerNo) (f : Keyer → Keyer) :
    (s.modKeyer k f).events = s.events := rfl

@[simp] theorem modKeyer_contexts (k : KeyerNo) (f : Keyer → Keyer) :
    (s.modKeyer k f).contexts = s.contexts := rfl

@[simp] theorem modKeyer_keyers (k : KeyerNo) (f : Keyer → Keyer) :
    (s.modKeyer k f).keyers = s.keyers.set k (f (s.keyer k)) := rfl

@[simp] theorem modKeyer_tae (k : KeyerNo) (f : Keyer → Keyer) : (s.modKeyer k f).tae = s.tae := rfl

@[simp] theorem modKeyer_budgets (k : KeyerNo) (f : Keyer → Keyer) :
    (s.modKeyer k f).budgets = s.budgets := rfl

@[simp] theorem modKeyer_guards (k : KeyerNo) (f : Keyer → Keyer) :
    (s.modKeyer k f).guards = s.guards := rfl

@[simp] theorem modKeyer_links (k : KeyerNo) (f : Keyer → Keyer) :
    (s.modKeyer k f).links = s.links := rfl

@[simp] theorem modKeyer_arbiterWaits (k : KeyerNo) (f : Keyer → Keyer) :
    (s.modKeyer k f).arbiterWaits = s.arbiterWaits := rfl

@[simp] theorem modKeyer_pending (k : KeyerNo) (f : Keyer → Keyer) :
    (s.modKeyer k f).pending = s.pending := rfl

/-! ## setWaits -/

@[simp] theorem setWaits_part (b : Bool) : (s.setWaits b).part = s.part := rfl

@[simp] theorem setWaits_config (b : Bool) : (s.setWaits b).config = s.config := rfl

@[simp] theorem setWaits_timebase (b : Bool) : (s.setWaits b).timebase = s.timebase := rfl

@[simp] theorem setWaits_buffer (b : Bool) : (s.setWaits b).buffer = s.buffer := rfl

@[simp] theorem setWaits_spiOut (b : Bool) : (s.setWaits b).spiOut = s.spiOut := rfl

@[simp] theorem setWaits_mask (b : Bool) : (s.setWaits b).mask = s.mask := rfl

@[simp] theorem setWaits_events (b : Bool) : (s.setWaits b).events = s.events := rfl

@[simp] theorem setWaits_contexts (b : Bool) : (s.setWaits b).contexts = s.contexts := rfl

@[simp] theorem setWaits_keyers (b : Bool) : (s.setWaits b).keyers = s.keyers := rfl

@[simp] theorem setWaits_tae (b : Bool) : (s.setWaits b).tae = s.tae := rfl

@[simp] theorem setWaits_budgets (b : Bool) : (s.setWaits b).budgets = s.budgets := rfl

@[simp] theorem setWaits_guards (b : Bool) : (s.setWaits b).guards = s.guards := rfl

@[simp] theorem setWaits_links (b : Bool) : (s.setWaits b).links = s.links := rfl

@[simp] theorem setWaits_arbiterWaits (b : Bool) : (s.setWaits b).arbiterWaits = b := rfl

@[simp] theorem setWaits_pending (b : Bool) : (s.setWaits b).pending = s.pending := rfl

/-! ## Reading back -/

theorem ctx_setRecord (i j : Slot) (c : Option Context) :
    (s.setRecord i c).ctx j = if i = j then c else s.ctx j := by
  simp only [ctx, setRecord_contexts, Fin.getElem_fin, Vector.getElem_set, Fin.ext_iff]

@[simp] theorem ctx_setRecord_self (i : Slot) (c : Option Context) : (s.setRecord i c).ctx i = c := by
  simp [ctx_setRecord]

theorem link_setLink (d e : Degree) (v : Link) :
    (s.setLink d v).link e = if d = e then v else s.link e := by
  simp only [link, setLink_links, Fin.getElem_fin, Vector.getElem_set, Fin.ext_iff]

@[simp] theorem link_setLink_self (d : Degree) (v : Link) : (s.setLink d v).link d = v := by
  simp [link_setLink]

theorem keyer_setKeyer (k j : KeyerNo) (v : Keyer) :
    (s.setKeyer k v).keyer j = if k = j then v else s.keyer j := by
  simp only [keyer, setKeyer_keyers, Fin.getElem_fin, Vector.getElem_set, Fin.ext_iff]

@[simp] theorem keyer_setKeyer_self (k : KeyerNo) (v : Keyer) : (s.setKeyer k v).keyer k = v := by
  simp [keyer_setKeyer]

theorem tap_setTap (t u : Tap) (v : TapRecord) :
    (s.setTap t v).tap u = if t = u then v else s.tap u := by
  simp only [tap, setTap_tae, Fin.getElem_fin, Vector.getElem_set, Fin.ext_iff]

@[simp] theorem tap_setTap_self (t : Tap) (v : TapRecord) : (s.setTap t v).tap t = v := by
  simp [tap_setTap]

theorem budget_setBudget (d e : Degree) (v : Budget) :
    (s.setBudget d v).budget e = if d = e then v else s.budget e := by
  simp only [budget, setBudget_budgets, Fin.getElem_fin, Vector.getElem_set, Fin.ext_iff]

@[simp] theorem budget_setBudget_self (d : Degree) (v : Budget) :
    (s.setBudget d v).budget d = v := by
  simp [budget_setBudget]

theorem guard_setGuard (d e : Degree) (v : Guard) :
    (s.setGuard d v).guard e = if d = e then v else s.guard e := by
  simp only [guard, setGuard_guards, Fin.getElem_fin, Vector.getElem_set, Fin.ext_iff]

@[simp] theorem guard_setGuard_self (d : Degree) (v : Guard) : (s.setGuard d v).guard d = v := by
  simp [guard_setGuard]

end State

/-! ## The tone plan -/

/-- R30: the decoder finds at the frequency of a tone index that index. -/
@[simp] theorem toneAtHertz_toneHertz (k : Tone) : toneAtHertz (toneHertz k) = some k := by
  have hk := k.isLt
  have e : toneHertz k - 20000 = 250 * k.val := by unfold toneHertz; omega
  unfold toneAtHertz
  simp only [e]
  rw [dif_pos ⟨by unfold toneHertz; omega, by omega, by omega⟩]
  exact congrArg some (Fin.ext (by simp))

end Sys2Proof.Machine
end

