-- ==== Sys2Proof/Laws/Calm.lean ====
section
/-! SUPPORT. The operations on requests are calm (`State.Calm`): one lemma for each. -/

namespace Sys2Proof.Machine

theorem sameSlot_refl {R : Context → Context → Prop} (h : ∀ c, R c c) (o : Option Context) :
    sameSlot R o o := by
  cases o with
  | none => trivial
  | some c => exact h c

theorem sameSlot_trans {R : Context → Context → Prop} (h : ∀ a b c, R a b → R b c → R a c)
    {o p q : Option Context} (h1 : sameSlot R o p) (h2 : sameSlot R p q) : sameSlot R o q := by
  cases o <;> cases p <;> cases q <;> simp only [sameSlot] at *
  exact h _ _ _ h1 h2

theorem sameSlot_mono {R S : Context → Context → Prop} (h : ∀ a b, R a b → S a b)
    {o p : Option Context} (h1 : sameSlot R o p) : sameSlot S o p := by
  cases o <;> cases p <;> simp only [sameSlot] at *
  exact h _ _ h1

theorem Context.Calmly.refl (c : Context) : c.Calmly c := rfl

theorem Context.Calmly.trans (a b c : Context) (h1 : a.Calmly b) (h2 : b.Calmly c) : a.Calmly c := by
  unfold Context.Calmly at *
  rw [h2, h1]

namespace State

theorem Marks.refl (s : State) : s.Marks s := fun _ _ => ⟨id, Or.inl rfl⟩

theorem Marks.trans {s t u : State} (h1 : s.Marks t) (h2 : t.Marks u) (hp : t.part = s.part) :
    s.Marks u := by
  intro hr i
  obtain ⟨k1, c1⟩ := h1 hr i
  obtain ⟨k2, c2⟩ := h2 (hp ▸ hr) i
  refine ⟨fun h => k2 (k1 h), ?_⟩
  rcases c2 with e | e
  · rcases c1 with e1 | e1
    · exact Or.inl (e.trans e1)
    · exact Or.inr (k2 e1)
  · exact Or.inr e

/-- An operation that writes no record and no change flag. -/
theorem marks_of_same {s t : State} (hc : t.contexts = s.contexts)
    (he : t.events.change = s.events.change) : s.Marks t := by
  intro _ i
  have e : t.ctx i = s.ctx i := by simp only [ctx, hc]
  rw [he, e]
  exact ⟨id, Or.inl rfl⟩

theorem Calm.refl (s : State) : s.Calm s :=
  ⟨rfl, rfl, rfl, fun _ => rfl, fun _ => sameSlot_refl Context.Calmly.refl _, Marks.refl s⟩

theorem Calm.trans {s t u : State} (h1 : s.Calm t) (h2 : t.Calm u) : s.Calm u :=
  ⟨h2.still.trans h1.still, h2.keyers.trans h1.keyers, h2.budgets.trans h1.budgets,
    fun d => (h2.wire d).trans (h1.wire d),
    fun i => sameSlot_trans Context.Calmly.trans (h1.records i) (h2.records i),
    h1.marks.trans h2.marks (congrArg Still.part h1.still)⟩

theorem Calm.foldl {α : Type} {f : State → α → State} (h : ∀ (s : State) (a : α), s.Calm (f s a)) (l : List α)
    (s : State) : s.Calm (l.foldl f s) := by
  induction l generalizing s with
  | nil => exact Calm.refl s
  | cons a l ih => exact (h s a).trans (ih (f s a))

variable (s : State)

/-! ## Records and event flags -/

theorem ctx_markChange (i j : Slot) : (s.markChange i).ctx j = s.ctx j := by
  unfold markChange
  split <;> rfl

theorem still_markChange (i : Slot) : (s.markChange i).still = s.still := by
  unfold markChange
  split <;> rfl

/-- R12: outside RESTARTING the flag of a slot that is marked is set, and no flag is cleared. -/
theorem change_markChange (i j : Slot) (h : s.part ≠ .restarting) :
    (s.markChange i).events.change[j] = if i = j then true else s.events.change[j] := by
  unfold markChange
  rw [if_neg h]
  simp only [setEvents_events]
  by_cases e : i = j
  · subst e
    simp
  · rw [if_neg e]
    have hv : (i : Nat) ≠ j := fun k => e (Fin.ext k)
    simp [hv]

theorem calm_markChange (i : Slot) : s.Calm (s.markChange i) := by
  refine ⟨still_markChange s i, ?_, ?_, fun d => ?_, fun j => ?_, fun hp j => ?_⟩
  · unfold markChange
    split <;> rfl
  · unfold markChange
    split <;> rfl
  · unfold markChange
    split <;> rfl
  · rw [ctx_markChange]
    exact sameSlot_refl Context.Calmly.refl _
  · rw [ctx_markChange, change_markChange s i j hp]
    refine ⟨fun h => ?_, Or.inl rfl⟩
    split
    · rfl
    · exact h

theorem ctx_putRecord (i j : Slot) (c : Option Context) :
    (s.putRecord i c).ctx j = if i = j then c else s.ctx j := by
  unfold putRecord
  split
  · rw [ctx_setRecord]
  · rw [ctx_markChange, ctx_setRecord]

theorem still_putRecord (i : Slot) (c : Option Context) : (s.putRecord i c).still = s.still := by
  unfold putRecord
  split
  · rfl
  · rw [still_markChange]
    rfl

theorem keyers_putRecord (i : Slot) (c : Option Context) : (s.putRecord i c).keyers = s.keyers := by
  unfold putRecord markChange
  repeat' split
  all_goals rfl

theorem budgets_putRecord (i : Slot) (c : Option Context) :
    (s.putRecord i c).budgets = s.budgets := by
  unfold putRecord markChange
  repeat' split
  all_goals rfl

theorem links_putRecord (i : Slot) (c : Option Context) : (s.putRecord i c).links = s.links := by
  unfold putRecord markChange
  repeat' split
  all_goals rfl

theorem wire_putRecord (i : Slot) (c : Option Context) (d : Degree) :
    (s.putRecord i c).wire d = s.wire d := by
  simp only [wire, link, links_putRecord]

/-- R12: writing a record marks its slot when the record shows a change. -/
theorem marks_putRecord (i : Slot) (c : Option Context) : s.Marks (s.putRecord i c) := by
  intro hp j
  rw [ctx_putRecord]
  unfold putRecord
  split
  · rename_i h
    refine ⟨id, Or.inl ?_⟩
    split
    · rename_i e
      subst e
      exact h
    · rfl
  · rw [change_markChange _ i j (by exact hp)]
    split
    · exact ⟨fun _ => rfl, Or.inr rfl⟩
    · exact ⟨id, Or.inl rfl⟩

theorem calm_putRecord {i : Slot} {c d : Context} (h : s.ctx i = some c) (hd : c.Calmly d) :
    s.Calm (s.putRecord i (some d)) := by
  refine ⟨still_putRecord s i _, keyers_putRecord s i _, budgets_putRecord s i _,
    wire_putRecord s i _, fun j => ?_, marks_putRecord s i _⟩
  rw [ctx_putRecord]
  split
  · rename_i e
    subst e
    rw [h]
    exact hd
  · exact sameSlot_refl Context.Calmly.refl _

theorem calm_modCtx (i : Slot) (f : Context → Context) (h : ∀ c : Context, c.Calmly (f c)) :
    s.Calm (s.modCtx i f) := by
  unfold modCtx
  split
  · exact Calm.refl s
  · exact calm_putRecord s ‹_› (h _)

theorem calm_syncHolds (i : Slot) : s.Calm (s.syncHolds i) := calm_modCtx s i _ fun _ => rfl

theorem calm_syncLink (d : Degree) : s.Calm (s.syncLink d) := by
  unfold syncLink
  refine Calm.foldl (fun s i => ?_) _ s
  split
  · exact calm_syncHolds s i
  · exact Calm.refl s

/-! ## Request lists -/

theorem wire_setLink (d e : Degree) (v : Link) :
    (s.setLink d v).wire e = if d = e then { v with requests := [] } else s.wire e := by
  unfold wire
  rw [link_setLink]
  split <;> rfl

theorem calm_setRequests (d : Degree) (rs : List Request) : s.Calm (s.setRequests d rs) := by
  refine ⟨rfl, rfl, rfl, fun e => ?_, fun _ => sameSlot_refl Context.Calmly.refl _,
    marks_of_same rfl rfl⟩
  unfold setRequests modLink
  rw [wire_setLink]
  split
  · rename_i h
    subst h
    rfl
  · rfl

theorem calm_modRequest (d : Degree) (k : ReqKey) (f : Request → Request) :
    s.Calm (s.modRequest d k f) := calm_setRequests s d _

theorem calm_takeRequest (d : Degree) (k : ReqKey) : s.Calm (s.takeRequest d k) :=
  calm_setRequests s d _

theorem calm_modRequests (d : Degree) (f : Request → Request) : s.Calm (s.modRequests d f) :=
  (calm_setRequests s d _).trans (calm_syncLink _ d)

theorem calm_setGroup (d : Degree) (g : Nat) (entries : List GroupEntry) :
    s.Calm (s.setGroup d g entries) := by
  unfold setGroup
  refine (calm_setRequests s d _).trans (Calm.foldl (fun s i => ?_) _ _)
  refine Calm.trans (calm_modCtx s i _ ?_) (calm_syncHolds _ i)
  exact fun _ => rfl

theorem calm_removeRequest (i : Slot) : s.Calm (s.removeRequest i) := by
  unfold removeRequest
  split
  · exact Calm.refl s
  · split
    · exact calm_syncHolds s i
    · split
      · exact (calm_setRequests s _ _).trans (calm_syncHolds _ i)
      · exact calm_setGroup s _ _ _

theorem calm_postRequest (i : Slot) (r : Request) : s.Calm (s.postRequest i r) := by
  unfold postRequest
  dsimp only
  split
  · exact Calm.refl s
  · split
    · exact (calm_setRequests s _ _).trans (calm_setGroup _ _ _ _)
    · exact (calm_setRequests s _ _).trans (calm_syncHolds _ i)
    · exact (calm_setRequests s _ _).trans (calm_syncHolds _ i)

theorem calm_postBlock (i : Slot) : s.Calm (s.postBlock i) := by
  unfold postBlock
  split
  · exact Calm.refl s
  · split
    · exact Calm.refl s
    · exact calm_postRequest s i _

theorem calm_postWithdrawStep (i : Slot) : s.Calm (s.postWithdrawStep i) := by
  unfold postWithdrawStep
  split
  · exact Calm.refl s
  · exact calm_postRequest s i _

theorem calm_postOpen (i : Slot) (p : Nat) : s.Calm (s.postOpen i p) := by
  unfold postOpen
  split
  · exact Calm.refl s
  · exact calm_postRequest s i _

theorem calm_postStep (i : Slot) (dir : Direction) (size : Nat) : s.Calm (s.postStep i dir size) := by
  unfold postStep
  split
  · exact Calm.refl s
  · exact calm_postRequest s i _

theorem calm_postRead (i : Slot) : s.Calm (s.postRead i) := by
  unfold postRead
  split
  · exact Calm.refl s
  · exact calm_postRequest s i _

theorem calm_evaluateGroup (d : Degree) (g : Nat) : s.Calm (s.evaluateGroup d g) := by
  unfold evaluateGroup
  split
  · exact Calm.refl s
  · split
    · exact calm_setGroup s d g _
    · exact Calm.refl s

theorem calm_evaluateGroupOf (c : Context) : s.Calm (s.evaluateGroupOf c) := by
  unfold evaluateGroupOf
  split
  · exact Calm.refl s
  · exact calm_evaluateGroup s _ _

theorem calm_joinGroup (i : Slot) (c : Context) (g : Nat) : s.Calm (s.joinGroup i c g) := by
  unfold joinGroup
  split
  · exact calm_setGroup s _ _ _
  · dsimp only
    split
    · exact calm_evaluateGroup s _ _
    · exact (calm_evaluateGroup s _ _).trans (calm_removeRequest _ i)

theorem calm_postWithdrawal (i : Slot) : s.Calm (s.postWithdrawal i) := by
  unfold postWithdrawal
  split
  · exact Calm.refl s
  · split
    · exact Calm.refl s
    · split
      · exact calm_postBlock s i
      · split
        · exact calm_postWithdrawStep s i
        · exact Calm.refl s

theorem calm_holdForBudget (d : Degree) (k : ReqKey) (holders : List Slot) :
    s.Calm (s.holdForBudget d k holders) :=
  (calm_modRequest s d k _).trans (Calm.foldl (fun s i => calm_syncHolds s i) _ _)

theorem calm_holdForGuard (d : Degree) (k : ReqKey) (holders : List Slot) :
    s.Calm (s.holdForGuard d k holders) :=
  (calm_modRequest s d k _).trans (Calm.foldl (fun s i => calm_syncHolds s i) _ _)

/-! ## The Keyer Bank -/

variable {s}

/-- An operation that binds and frees no keyer, and keeps the keyer of every record and whether it is
live. -/
theorem keyersInv_of_same {t : State} (hk : ∀ k, (t.keyer k).bound = (s.keyer k).bound)
    (hc : ∀ i, sameSlot (fun c d => d.keyer = c.keyer ∧ d.live = c.live) (s.ctx i) (t.ctx i))
    (h : s.KeyersInv) : t.KeyersInv := by
  refine ⟨fun i d k hd hdk => ?_, fun k i hb => ?_⟩
  · have e := hc i
    rw [hd] at e
    cases hs : s.ctx i with
    | none => rw [hs] at e; exact e.elim
    | some c =>
      rw [hs] at e
      obtain ⟨hb, hl⟩ := h.named i c k hs (e.1 ▸ hdk)
      exact ⟨(hk k).trans hb, e.2.trans hl⟩
  · obtain ⟨c, hs, hck⟩ := h.bound k i ((hk k) ▸ hb)
    have e := hc i
    rw [hs] at e
    cases hd : t.ctx i with
    | none => rw [hd] at e; exact e.elim
    | some d =>
      rw [hd] at e
      exact ⟨d, rfl, e.1.trans hck⟩

theorem Calm.bank {t : State} (h : s.Calm t) : s.KeyersInv → t.KeyersInv := by
  refine keyersInv_of_same (fun k => by simp only [keyer, h.keyers])
    fun i => sameSlot_mono (fun c d hcd => ?_) (h.records i)
  unfold Context.Calmly at hcd
  rw [hcd]
  exact ⟨rfl, rfl⟩

end State

end Sys2Proof.Machine
end

