-- ==== Sys2Proof/Laws/Reacts.lean ====
section
/-! SUPPORT. What the Context Table does at one event reacts (`State.Reacts`): one lemma for each shared
operation. -/

namespace Sys2Proof.Machine

/-! ## The relations are preorders -/

/-- A change of fields that no rule of the relation mentions. -/
theorem evolves_of_rfl {c d : Context}
    (h : d = { d with
      state := c.state, role := c.role, tone := c.tone, channel := c.channel, ingress := c.ingress
      egress := c.egress, priority := c.priority, group := c.group
      targetOverride := c.targetOverride, sNom := c.sNom, tTol := c.tTol, deadline := c.deadline
      outcome := c.outcome, portClosed := c.portClosed, elapsed := c.elapsed, frozen := c.frozen
      keyer := c.keyer, partner := c.partner, drift := c.drift, cause := c.cause }) :
    c.Evolves d := by
  rw [h]
  exact ⟨rfl, fun h => ⟨h, rfl, rfl, rfl⟩, Or.inl, Or.inl, id, fun h _ => ⟨h, rfl⟩, Or.inl rfl,
    Or.inl rfl, rfl, fun f => ⟨f.drift, f.cause, f.outcome, f.portClosed⟩⟩

theorem Context.Evolves.refl (c : Context) : c.Evolves c := evolves_of_rfl rfl

theorem Context.Evolves.trans (a b c : Context) (h1 : a.Evolves b) (h2 : b.Evolves c) :
    a.Evolves c where
  identity := h2.identity.trans h1.identity
  ended h := by
    obtain ⟨e1, o1, p1, t1⟩ := h1.ended h
    obtain ⟨e2, o2, p2, t2⟩ := h2.ended e1
    exact ⟨e2, o2.trans o1, p2.trans p1, t2.trans t1⟩
  withdrawing h := by
    rcases h1.withdrawing h with e | e
    · exact h2.withdrawing e
    · exact Or.inr (h2.ended e).1
  commissioned h := by
    rcases h1.commissioned h with e | e | e
    · exact h2.commissioned e
    · exact Or.inr (h2.withdrawing e)
    · exact Or.inr (Or.inr (h2.ended e).1)
  adopting h := h1.adopting (h2.adopting h)
  frozen h ha := by
    obtain ⟨f1, e1⟩ := h1.frozen h ha
    obtain ⟨f2, e2⟩ := h2.frozen f1 fun e => ha (h1.adopting e)
    exact ⟨f2, e2.trans e1⟩
  elapsed := by
    rcases h2.elapsed with e | e
    · rcases h1.elapsed with e1 | e1
      · exact Or.inl (e.trans e1)
      · exact Or.inr (e.trans e1)
    · exact Or.inr e
  keyer := by
    rcases h2.keyer with e | e
    · rcases h1.keyer with e1 | e1
      · exact Or.inl (e.trans e1)
      · exact Or.inr (e.trans e1)
    · exact Or.inr e
  partner := h2.partner.trans h1.partner
  fields f := h2.fields (h1.fields f)

/-- R30: the frequency of a record's tone stays the same for the life of the record. -/
theorem Context.Evolves.hertz {c d : Context} (h : c.Evolves d) : toneHertz d.tone = toneHertz c.tone :=
  congrArg (toneHertz ∘ Identity.tone) h.identity

/-- A change of fields that no rule of `Context.Turns` mentions. -/
theorem turns_of_rfl {c d : Context}
    (h : d = { d with
      state := c.state, role := c.role, tone := c.tone, channel := c.channel, ingress := c.ingress
      egress := c.egress, priority := c.priority, group := c.group
      targetOverride := c.targetOverride, sNom := c.sNom, tTol := c.tTol, deadline := c.deadline
      outcome := c.outcome, portClosed := c.portClosed, elapsed := c.elapsed, frozen := c.frozen
      keyer := c.keyer, partner := c.partner, drift := c.drift, cause := c.cause
      atten := c.atten, switchReason := c.switchReason, doneAt := c.doneAt
      lastPower := c.lastPower }) :
    c.Turns d := by
  rw [h]
  exact ⟨evolves_of_rfl rfl, rfl, rfl, rfl, rfl⟩

theorem Context.Turns.refl (c : Context) : c.Turns c := turns_of_rfl rfl

theorem Context.Turns.trans (a b c : Context) (h1 : a.Turns b) (h2 : b.Turns c) : a.Turns c :=
  ⟨.trans a b c h1.toEvolves h2.toEvolves, h2.atten.trans h1.atten,
    h2.switchReason.trans h1.switchReason, h2.doneAt.trans h1.doneAt,
    h2.lastPower.trans h1.lastPower⟩

theorem Context.Turns.evolves (c d : Context) (h : c.Turns d) : c.Evolves d := h.toEvolves

theorem Context.Calmly.turns (c d : Context) (h : c.Calmly d) : c.Turns d := by
  unfold Context.Calmly at h
  rw [h]
  exact turns_of_rfl rfl

/-- What the Keyer Bank asks of a record that is written: it names the keyer it named, and a record that
names one does not end (R38, R45). -/
def Context.KeepsKeyer (c d : Context) : Prop :=
  d.keyer = c.keyer ∧ (c.keyer.isSome = true → c.live = true → d.live = true)

namespace State

theorem Reacts.refl (s : State) : s.Reacts s :=
  ⟨rfl, rfl, fun _ => rfl, fun _ => sameSlot_refl Context.Turns.refl _, Marks.refl s, id⟩

theorem Reacts.trans {s t u : State} (h1 : s.Reacts t) (h2 : t.Reacts u) : s.Reacts u :=
  ⟨h2.still.trans h1.still, h2.budgets.trans h1.budgets, fun d => (h2.wire d).trans (h1.wire d),
    fun i => sameSlot_trans Context.Turns.trans (h1.records i) (h2.records i),
    h1.marks.trans h2.marks (congrArg Still.part h1.still), fun h => h2.bank (h1.bank h)⟩

theorem Calm.reacts {s t : State} (h : s.Calm t) : s.Reacts t :=
  ⟨h.still, h.budgets, h.wire, fun i => sameSlot_mono Context.Calmly.turns (h.records i),
    h.marks, h.bank⟩

theorem Reacts.foldl {α : Type} {f : State → α → State} (h : ∀ (s : State) (a : α), s.Reacts (f s a))
    (l : List α) (s : State) : s.Reacts (l.foldl f s) := by
  induction l generalizing s with
  | nil => exact Reacts.refl s
  | cons a l ih => exact (h s a).trans (ih (f s a))

variable (s : State)

/-! ## Records -/

theorem keyersInv_putRecord {i : Slot} {c d : Context} (h : s.ctx i = some c) (hd : c.KeepsKeyer d)
    (hs : s.KeyersInv) : (s.putRecord i (some d)).KeyersInv := by
  have hk (k : KeyerNo) : (s.putRecord i (some d)).keyer k = s.keyer k := by
    simp only [keyer, keyers_putRecord]
  refine ⟨fun j x k hx hxk => ?_, fun k j hb => ?_⟩
  · rw [hk]
    rw [ctx_putRecord] at hx
    split at hx
    · rename_i e
      subst e
      cases hx
      obtain ⟨hb, hl⟩ := hs.named i c k h (hd.1 ▸ hxk)
      exact ⟨hb, hd.2 (by rw [← hd.1, hxk]; rfl) hl⟩
    · exact hs.named j x k hx hxk
  · rw [hk] at hb
    obtain ⟨x, hx, hxk⟩ := hs.bound k j hb
    rw [ctx_putRecord]
    split
    · rename_i e
      subst e
      rw [h] at hx
      cases hx
      exact ⟨d, rfl, hd.1.trans hxk⟩
    · exact ⟨x, hx, hxk⟩

theorem keyersInv_modCtx {i : Slot} {f : Context → Context}
    (h : ∀ c : Context, s.ctx i = some c → c.KeepsKeyer (f c)) (hs : s.KeyersInv) :
    (s.modCtx i f).KeyersInv := by
  unfold modCtx
  split
  · exact hs
  · exact keyersInv_putRecord s ‹_› (h _ ‹_›) hs

theorem reacts_putRecord {i : Slot} {c d : Context} (h : s.ctx i = some c) (hd : c.Turns d)
    (hk : c.KeepsKeyer d) : s.Reacts (s.putRecord i (some d)) := by
  refine ⟨still_putRecord s i _, budgets_putRecord s i _, wire_putRecord s i _, fun j => ?_,
    marks_putRecord s i _, keyersInv_putRecord s h hk⟩
  rw [ctx_putRecord]
  split
  · rename_i e
    subst e
    rw [h]
    exact hd
  · exact sameSlot_refl Context.Turns.refl _

theorem reacts_modCtx {i : Slot} {f : Context → Context}
    (h : ∀ c : Context, s.ctx i = some c → c.Turns (f c))
    (hk : ∀ c : Context, s.ctx i = some c → c.KeepsKeyer (f c)) : s.Reacts (s.modCtx i f) := by
  unfold modCtx
  split
  · exact Reacts.refl s
  · exact reacts_putRecord s ‹_› (h _ ‹_›) (hk _ ‹_›)

/-- A change of fields that no rule of the relation mentions. -/
theorem reacts_modCtx_of_rfl {i : Slot} {f : Context → Context}
    (h : ∀ c : Context, f c = { f c with
      state := c.state, role := c.role, tone := c.tone, channel := c.channel, ingress := c.ingress
      egress := c.egress, priority := c.priority, group := c.group
      targetOverride := c.targetOverride, sNom := c.sNom, tTol := c.tTol, deadline := c.deadline
      outcome := c.outcome, portClosed := c.portClosed, elapsed := c.elapsed, frozen := c.frozen
      keyer := c.keyer, partner := c.partner, drift := c.drift, cause := c.cause
      atten := c.atten, switchReason := c.switchReason, doneAt := c.doneAt
      lastPower := c.lastPower }) :
    s.Reacts (s.modCtx i f) := by
  refine reacts_modCtx s (fun c _ => turns_of_rfl (h c)) fun c _ => ?_
  rw [h c]
  exact ⟨rfl, fun _ => id⟩

theorem reacts_modFlags (i : Slot) (f : CondFlags → CondFlags) : s.Reacts (s.modFlags i f) :=
  reacts_modCtx_of_rfl s fun _ => rfl

/-! ## Keyers -/

/-- A keyer that stays bound as it is. -/
theorem reacts_modKeyer (k : KeyerNo) (f : Keyer → Keyer) (h : ∀ x : Keyer, (f x).bound = x.bound) :
    s.Reacts (s.modKeyer k f) := by
  refine ⟨rfl, rfl, fun _ => rfl, fun _ => sameSlot_refl Context.Turns.refl _, marks_of_same rfl rfl,
    keyersInv_of_same (fun j => ?_) fun _ => sameSlot_refl (fun _ => ⟨rfl, rfl⟩) _⟩
  unfold modKeyer
  rw [keyer_setKeyer]
  split
  · rename_i e
    subst e
    exact h _
  · rfl

theorem reacts_stageWord (i : Slot) : s.Reacts (s.stageWord i) := by
  unfold stageWord
  split
  · exact Reacts.refl s
  · split
    · split
      · exact reacts_modKeyer s _ _ fun _ => rfl
      · exact Reacts.refl s
    · exact Reacts.refl s

/-- R45: the keyer and the record that names it are parted together. -/
theorem keyersInv_release {i : Slot} {c : Context} {k : KeyerNo} (h : s.ctx i = some c)
    (hk : c.keyer = some k) (hs : s.KeyersInv) :
    ((s.setKeyer k Keyer.free).putRecord i (some { c with keyer := none })).KeyersInv := by
  have hb := (hs.named i c k h hk).1
  have hj (j : KeyerNo) : ((s.setKeyer k Keyer.free).putRecord i (some { c with keyer := none })).keyer j =
      if k = j then Keyer.free else s.keyer j := by
    rw [← keyer_setKeyer]
    simp only [keyer, keyers_putRecord]
  refine ⟨fun j x m hx hm => ?_, fun m j hm => ?_⟩
  · rw [ctx_putRecord] at hx
    split at hx
    · cases hx
      cases hm
    · rename_i e
      obtain ⟨hj', hl⟩ := hs.named j x m hx hm
      rw [hj, if_neg (fun e' : k = m => ?_)]
      · exact ⟨hj', hl⟩
      · subst e'
        rw [hb] at hj'
        exact e (Option.some.inj hj')
  · rw [hj] at hm
    split at hm
    · cases hm
    · rename_i e
      obtain ⟨x, hx, hxm⟩ := hs.bound m j hm
      rw [ctx_putRecord, if_neg (fun e' : i = j => ?_)]
      · exact ⟨x, hx, hxm⟩
      · subst e'
        rw [h] at hx
        cases hx
        exact e (Option.some.inj (hk.symm.trans hxm))

theorem reacts_releaseKeyer (i : Slot) : s.Reacts (s.releaseKeyer i) := by
  unfold releaseKeyer
  split
  · exact Reacts.refl s
  · rename_i c hc
    split
    · exact Reacts.refl s
    · rename_i k hk
      have e : (s.setKeyer k Keyer.free).modCtx i (fun c => { c with keyer := none }) =
          (s.setKeyer k Keyer.free).putRecord i (some { c with keyer := none }) := by
        unfold modCtx
        rw [show (s.setKeyer k Keyer.free).ctx i = some c from hc]
      rw [e]
      refine ⟨still_putRecord _ i _, budgets_putRecord _ i _, wire_putRecord _ i _, fun j => ?_,
        marks_putRecord (s.setKeyer k Keyer.free) i _, keyersInv_release s hc hk⟩
      rw [ctx_putRecord]
      split
      · rename_i e
        subst e
        rw [hc]
        exact ⟨⟨rfl, fun h => ⟨h, rfl, rfl, rfl⟩, Or.inl, Or.inl, id, fun h _ => ⟨h, rfl⟩, Or.inl rfl,
          Or.inr rfl, rfl, fun f => ⟨f.drift, f.cause, f.outcome, f.portClosed⟩⟩, rfl, rfl, rfl, rfl⟩
      · exact sameSlot_refl Context.Turns.refl _

/-- R45: the context holds no keyer. -/
theorem keyer_releaseKeyer {i : Slot} {c : Context} (h : (s.releaseKeyer i).ctx i = some c) :
    c.keyer = none := by
  unfold releaseKeyer modCtx at h
  repeat' split at h
  all_goals simp_all [ctx_putRecord]
  rw [← h]

theorem reacts_lingerKeyer (i : Slot) : s.Reacts (s.lingerKeyer i) := by
  unfold lingerKeyer
  split
  · exact Reacts.refl s
  · split
    · exact Reacts.refl s
    · exact reacts_modKeyer s _ _ fun _ => rfl

theorem reacts_startKeyer (i : Slot) : s.Reacts (s.startKeyer i) := by
  unfold startKeyer
  split
  · exact Reacts.refl s
  · split
    · exact Reacts.refl s
    · exact reacts_modKeyer s _ _ fun _ => rfl

/-! ## Entering a state -/

/-- A record in a state that its own leads to, whose presence rules are kept. -/
theorem turns_entering {c d : Context} {st : CtxState} (h : c.state.leadsTo st = true)
    (hd : d = { d with
      state := st, role := c.role, tone := c.tone, channel := c.channel, ingress := c.ingress
      egress := c.egress, priority := c.priority, group := c.group
      targetOverride := c.targetOverride, sNom := c.sNom, tTol := c.tTol, deadline := c.deadline
      elapsed := c.elapsed, frozen := c.frozen || st == .commissioned, keyer := c.keyer
      partner := c.partner, atten := c.atten, switchReason := c.switchReason, doneAt := c.doneAt
      lastPower := c.lastPower })
    (hf : c.FieldsPresent → d.FieldsPresent) : c.Turns d := by
  have hs : d.state = st := by rw [hd]
  have he : d.elapsed = c.elapsed := by rw [hd]
  have hz : d.frozen = (c.frozen || st == .commissioned) := by rw [hd]
  refine ⟨⟨by rw [hd]; rfl, fun e => ?_, fun e => ?_, fun e => ?_, fun e => ?_, fun e _ => ?_,
    Or.inl he, Or.inl (by rw [hd]), by rw [hd], hf⟩, by rw [hd], by rw [hd], by rw [hd], by rw [hd]⟩
  · simp [e, CtxState.leadsTo] at h
  · rw [e] at h
    rw [hs]
    cases st <;> simp [CtxState.leadsTo] at h ⊢
  · rw [e] at h
    rw [hs]
    cases st <;> simp [CtxState.leadsTo] at h ⊢
  · rw [hs] at e
    subst e
    cases hc : c.state <;> simp [hc, CtxState.leadsTo] at h
  · exact ⟨by rw [hz, e]; rfl, he⟩

/-- ENDED leads nowhere, so a record that enters a state has no outcome. -/
theorem not_ended_of_leadsTo {c : Context} {st : CtxState} (h : c.state.leadsTo st = true) :
    c.state ≠ .ended := by
  intro e
  simp [e, CtxState.leadsTo] at h

theorem fieldsPresent_enter {c : Context} {st : CtxState} (h : c.state.leadsTo st = true)
    (hw : st ≠ .withdrawing) (he : st ≠ .ended) (f : c.FieldsPresent) :
    (c.enter st).FieldsPresent := by
  have hn := not_ended_of_leadsTo h
  have ho := f.outcome
  have hp := f.portClosed
  constructor
  · simp only [Context.enter]
    split <;> simp_all
  · simp [Context.enter, hw]
  · simp [Context.enter, he]
    simpa [hn] using ho
  · simp [Context.enter, he]
    simpa [hn] using hp

theorem turns_enter {c : Context} {st : CtxState} (h : c.state.leadsTo st = true)
    (hw : st ≠ .withdrawing) (he : st ≠ .ended) : c.Turns (c.enter st) :=
  turns_entering h rfl (fieldsPresent_enter h hw he)

/-- A record that enters a state other than ENDED and keeps its keyer. -/
theorem keepsKeyer_of_entering {c d : Context} {st : CtxState} (he : st ≠ .ended) (hs : d.state = st)
    (hk : d.keyer = c.keyer) : c.KeepsKeyer d :=
  ⟨hk, fun _ _ => by simpa [Context.live, hs] using he⟩

theorem reacts_changeState (i : Slot) (st : CtxState) (f : Context → Context)
    (h : ∀ c : Context, s.ctx i = some c → c.state.leadsTo st = true → c.Turns (f (c.enter st)))
    (hk : ∀ c : Context, s.ctx i = some c → c.KeepsKeyer (f (c.enter st))) :
    s.Reacts (s.changeState i st f) := by
  unfold changeState
  split
  · exact Reacts.refl s
  · rename_i c hc
    split
    · rename_i hl
      have h1 : s.Reacts ((s.modCtx i fun c => f (c.enter st)).stageWord i) := by
        refine (reacts_modCtx s (fun c' hc' => h c' hc' ?_) hk).trans (reacts_stageWord _ i)
        rw [hc] at hc'
        cases hc'
        exact hl
      have h2 : s.Reacts (if st.clearsRequest then
          ((s.modCtx i fun c => f (c.enter st)).stageWord i).removeRequest i
          else (s.modCtx i fun c => f (c.enter st)).stageWord i) := by
        split
        · exact h1.trans (calm_removeRequest _ i).reacts
        · exact h1
      dsimp only
      split
      · exact h2.trans (calm_evaluateGroupOf _ c).reacts
      · exact h2
    · exact Reacts.refl s

theorem reacts_changeState_id (i : Slot) (st : CtxState) (hw : st ≠ .withdrawing)
    (he : st ≠ .ended) : s.Reacts (s.changeState i st id) :=
  reacts_changeState s i st id (fun _ _ h => turns_enter h hw he) fun _ _ =>
    keepsKeyer_of_entering he rfl rfl

/-- `f` touches no field that a rule of the relation mentions. -/
theorem reacts_changeState_of_rfl (i : Slot) (st : CtxState) (f : Context → Context)
    (hw : st ≠ .withdrawing) (he : st ≠ .ended)
    (h : ∀ c : Context, f c = { f c with
      state := c.state, role := c.role, tone := c.tone, channel := c.channel, ingress := c.ingress
      egress := c.egress, priority := c.priority, group := c.group
      targetOverride := c.targetOverride, sNom := c.sNom, tTol := c.tTol, deadline := c.deadline
      outcome := c.outcome, portClosed := c.portClosed, elapsed := c.elapsed, frozen := c.frozen
      keyer := c.keyer, partner := c.partner, drift := c.drift, cause := c.cause
      atten := c.atten, switchReason := c.switchReason, doneAt := c.doneAt
      lastPower := c.lastPower }) :
    s.Reacts (s.changeState i st f) :=
  reacts_changeState s i st f
    (fun _ _ hl => (turns_enter hl hw he).trans _ _ _ (turns_of_rfl (h _)))
    fun _ _ => keepsKeyer_of_entering he (by rw [h]; rfl) (by rw [h]; rfl)

theorem reacts_commission (i : Slot) : s.Reacts (s.commission i) :=
  (reacts_changeState_id s i .commissioned nofun nofun).trans (reacts_lingerKeyer _ i)

theorem reacts_release (i : Slot) : s.Reacts (s.release i) := by
  unfold release
  refine Reacts.trans (Reacts.trans (reacts_modCtx_of_rfl s ?_) (reacts_startKeyer _ i))
    (calm_markChange _ i).reacts
  exact fun _ => rfl

theorem reacts_partnerOfSettledTail (p : Slot) : s.Reacts (s.partnerOfSettledTail p) := by
  unfold partnerOfSettledTail
  repeat' split
  all_goals first | with_reducible exact Reacts.refl s | with_reducible exact reacts_release s p | with_reducible exact reacts_commission s p

theorem reacts_partnerOfCommissionedTail (p : Slot) : s.Reacts (s.partnerOfCommissionedTail p) := by
  unfold partnerOfCommissionedTail
  repeat' split
  all_goals first | with_reducible exact Reacts.refl s | with_reducible exact reacts_release s p | with_reducible exact reacts_commission s p

theorem reacts_afterSettled (i : Slot) : s.Reacts (s.afterSettled i) := by
  unfold afterSettled
  repeat' split
  all_goals first
    | with_reducible exact Reacts.refl s
    | with_reducible exact reacts_partnerOfSettledTail s _
    | with_reducible exact reacts_commission s i

theorem reacts_settle (i : Slot) (limit : Option Limit) : s.Reacts (s.settle i limit) :=
  (reacts_changeState_of_rfl s i .settled _ nofun nofun fun _ => rfl).trans (reacts_afterSettled _ i)

theorem reacts_commissionWith (i : Slot) (f : Context → Context)
    (h : ∀ c : Context, s.ctx i = some c → c.state.leadsTo .commissioned = true →
      c.Turns (f (c.enter .commissioned)))
    (hk : ∀ c : Context, (f c).keyer = c.keyer ∧ (f c).state = c.state) :
    s.Reacts (s.commissionWith i f) := by
  unfold commissionWith
  refine ((reacts_changeState s i _ f h fun _ _ =>
    keepsKeyer_of_entering (st := .commissioned) nofun (hk _).2 (hk _).1).trans (reacts_lingerKeyer _ i)).trans ?_
  dsimp only
  repeat' split
  all_goals first | with_reducible exact Reacts.refl _ | with_reducible exact reacts_partnerOfCommissionedTail _ _

theorem reacts_commissionWith_id (i : Slot) : s.Reacts (s.commissionWith i id) :=
  reacts_commissionWith s i id (fun _ _ h => turns_enter h nofun nofun) fun _ => ⟨rfl, rfl⟩

/-! ## Leveling -/

theorem reacts_evaluateReady (i : Slot) : s.Reacts (s.evaluateReady i) := by
  unfold evaluateReady
  split
  · exact Reacts.refl s
  · split
    · exact reacts_modFlags s i _
    · exact Reacts.refl s

theorem reacts_postingTest (i : Slot) (fresh : Bool) : s.Reacts (s.postingTest i fresh) := by
  unfold postingTest
  split
  · exact Reacts.refl s
  · split
    · split
      · exact reacts_settle s i _
      · exact ((calm_postStep s i _ _).trans (calm_evaluateGroupOf _ _)).reacts
      · split
        · exact (calm_postStep s i _ _).reacts
        · exact (calm_joinGroup s i _ _).reacts
    · exact Reacts.refl s

theorem reacts_enterRamping (i : Slot) (fresh : Bool) : s.Reacts (s.enterRamping i fresh) :=
  ((reacts_changeState_id s i .ramping nofun nofun).trans (reacts_evaluateReady _ i)).trans (reacts_postingTest _ i fresh)

theorem reacts_enterFollowing (i : Slot) : s.Reacts (s.enterFollowing i) := by
  unfold enterFollowing
  refine Reacts.trans ((reacts_changeState_id s i .following nofun nofun).trans (reacts_evaluateReady _ i)) ?_
  dsimp only
  split
  · exact Reacts.refl _
  · split
    · exact Reacts.refl _
    · exact reacts_enterRamping _ i false

/-! ## Loss, withdrawal and endings -/

theorem reacts_lose (i : Slot) : s.Reacts (s.lose i) := by
  unfold lose
  refine (reacts_changeState_id s i .lost nofun nofun).trans ?_
  dsimp only
  split
  · exact Reacts.refl _
  · split
    · exact (calm_postBlock _ i).reacts
    · exact Reacts.refl _

theorem reacts_withdraw (i : Slot) (cause : Ending) : s.Reacts (s.withdraw i cause) := by
  refine (reacts_changeState s i _ _ (fun c _ hl => ?_) fun _ _ =>
    keepsKeyer_of_entering (st := .withdrawing) nofun rfl rfl).trans (calm_postWithdrawal _ i).reacts
  refine turns_entering hl rfl fun f => ?_
  have hn := not_ended_of_leadsTo hl
  have ho := f.outcome
  have hp := f.portClosed
  constructor <;> simp_all [Context.enter]

theorem reacts_endContext (i : Slot) (outcome : Ending) : s.Reacts (s.endContext i outcome) := by
  unfold endContext
  refine (reacts_releaseKeyer s i).trans (reacts_changeState _ i _ _ (fun c _ hl => ?_) fun c hc =>
    ⟨rfl, fun h => by rw [keyer_releaseKeyer s hc] at h; cases h⟩)
  refine turns_entering hl rfl fun f => ?_
  constructor <;> simp [Context.enter]

theorem reacts_partnerEnded (p : Slot) : s.Reacts (s.partnerEnded p) := by
  unfold partnerEnded
  repeat' split
  all_goals first
    | with_reducible exact Reacts.refl s
    | with_reducible exact reacts_endContext s p _
    | with_reducible exact reacts_withdraw s p _

end State

end Sys2Proof.Machine
end

