-- ==== Sys2Proof/Laws/Decides.lean ====
section
/-! SUPPORT. What the arbiters do (`State.Decides`): one lemma for each shared operation. -/

namespace Sys2Proof.Machine

theorem Budget.Spends.trans {a b c : Budget} (h1 : a.Spends b) (h2 : b.Spends c) : a.Spends c := by
  cases h1 with
  | same => exact h2
  | spent frames cause power x y due hxy =>
    cases h2 with
    | same => exact .spent _ _ _ _ _ _ hxy
    | spent _ _ _ _ z _ hyz =>
      refine .spent _ _ _ _ _ _ ?_
      cases hxy with
      | mk n r l h =>
        cases hyz with
        | mk _ _ m h' => exact .mk _ _ _ (h'.trans h)

theorem Link.Sends.refl (l : Link) : l.Sends l := Or.inl rfl

theorem Link.Sends.trans {a b c : Link} (h1 : a.Sends b) (h2 : b.Sends c) : a.Sends c := by
  rcases h1 with h1 | h1
  · exact h1 ▸ h2
  · rcases h2 with h2 | h2
    · exact Or.inr (h2 ▸ h1)
    · simp [h1.2.1] at h2

namespace State

theorem MovesBy.trans {R : Context → Context → Prop} (hR : ∀ a b c, R a b → R b c → R a c)
    {s t u : State} (h1 : s.MovesBy R t) (h2 : t.MovesBy R u) : s.MovesBy R u :=
  ⟨h2.still.trans h1.still, fun d => (h1.budgets d).trans (h2.budgets d),
    fun d => (h1.wire d).trans (h2.wire d), fun i => sameSlot_trans hR (h1.records i) (h2.records i),
    h1.marks.trans h2.marks (congrArg Still.part h1.still), fun h => h2.bank (h1.bank h)⟩

theorem Decides.refl (s : State) : s.Decides s :=
  ⟨rfl, fun _ => .same _, fun _ => Link.Sends.refl _, fun _ => sameSlot_refl Context.Turns.refl _,
    Marks.refl s, id⟩

theorem Decides.trans {s t u : State} (h1 : s.Decides t) (h2 : t.Decides u) : s.Decides u :=
  MovesBy.trans Context.Turns.trans h1 h2

theorem Moves.refl (s : State) : s.Moves s :=
  ⟨rfl, fun _ => .same _, fun _ => Link.Sends.refl _, fun _ => sameSlot_refl Context.Evolves.refl _,
    Marks.refl s, id⟩

theorem Moves.trans {s t u : State} (h1 : s.Moves t) (h2 : t.Moves u) : s.Moves u :=
  MovesBy.trans Context.Evolves.trans h1 h2

theorem Decides.moves {s t : State} (h : s.Decides t) : s.Moves t :=
  ⟨h.still, h.budgets, h.wire, fun i => sameSlot_mono Context.Turns.evolves (h.records i),
    h.marks, h.bank⟩

theorem Reacts.decides {s t : State} (h : s.Reacts t) : s.Decides t where
  still := h.still
  budgets d := by
    have e : t.budget d = s.budget d := by simp only [budget, h.budgets]
    rw [e]
    exact .same _
  wire d := Or.inl (h.wire d)
  records := h.records
  marks := h.marks
  bank := h.bank

theorem Calm.decides {s t : State} (h : s.Calm t) : s.Decides t := h.reacts.decides

theorem Reacts.moves {s t : State} (h : s.Reacts t) : s.Moves t := h.decides.moves

theorem Calm.moves {s t : State} (h : s.Calm t) : s.Moves t := h.decides.moves

theorem Decides.foldl {α : Type} {f : State → α → State} (h : ∀ (s : State) (a : α), s.Decides (f s a))
    (l : List α) (s : State) : s.Decides (l.foldl f s) := by
  induction l generalizing s with
  | nil => exact Decides.refl s
  | cons a l ih => exact (h s a).trans (ih (f s a))

theorem Moves.foldl {α : Type} {f : State → α → State} (h : ∀ (s : State) (a : α), s.Moves (f s a))
    (l : List α) (s : State) : s.Moves (l.foldl f s) := by
  induction l generalizing s with
  | nil => exact Moves.refl s
  | cons a l ih => exact (h s a).trans (ih (f s a))

variable (s : State)

/-! ## The arbiter -/

theorem spends_reserve (b : Budget) (charge : Nat) : b.Spends (b.reserve charge) := by
  obtain ⟨w, due⟩ := b
  cases w with
  | none => exact .same _
  | some w =>
    obtain ⟨frames, cause, power, a⟩ := w
    cases a with
    | none => exact .same _
    | some a => exact .spent _ _ _ _ _ _ (.mk _ _ _ (Nat.sub_le _ _))

theorem decides_reserve (d : Degree) (charge : Nat) : s.Decides (s.reserve d charge) := by
  refine ⟨rfl, fun e => ?_, fun _ => Link.Sends.refl _, fun _ => sameSlot_refl Context.Turns.refl _,
    marks_of_same rfl rfl,
    keyersInv_of_same (fun _ => rfl) fun _ => sameSlot_refl (fun _ => ⟨rfl, rfl⟩) _⟩
  unfold reserve
  rw [budget_setBudget]
  split
  · rename_i h
    subst h
    exact spends_reserve _ _
  · exact .same _

/-- R167: only an IDLE link sends. -/
theorem decides_send (d : Degree) (cmd : LinkCommand) (h : (s.link d).state = .idle) :
    s.Decides (s.send d cmd) := by
  refine ⟨rfl, fun _ => .same _, fun e => ?_, fun _ => sameSlot_refl Context.Turns.refl _,
    marks_of_same rfl rfl,
    keyersInv_of_same (fun _ => rfl) fun _ => sameSlot_refl (fun _ => ⟨rfl, rfl⟩) _⟩
  unfold send modLink
  rw [wire_setLink]
  split
  · rename_i he
    subst he
    exact Or.inr ⟨h, rfl, rfl, rfl, rfl, rfl, rfl, rfl, rfl⟩
  · exact Link.Sends.refl _

/-- Operations that keep the links keep a link IDLE. -/
theorem idle_of_wire {s t : State} {d : Degree} (h : t.wire d = s.wire d)
    (hs : (s.link d).state = .idle) : (t.link d).state = .idle := by
  have := congrArg Link.state h
  simpa [wire, hs] using this

/-- A link that was IDLE is IDLE still or has sent. -/
theorem MovesBy.idle_or_busy {R : Context → Context → Prop} {s t : State} (h : s.MovesBy R t)
    (d : Degree) (hs : (s.link d).state = .idle) :
    (t.link d).state = .idle ∨ (t.link d).state = .busy := by
  rcases h.wire d with e | e
  · exact Or.inl (idle_of_wire e hs)
  · exact Or.inr e.2.1

theorem idle_takeRequest {d : Degree} (k : ReqKey) (h : (s.link d).state = .idle) :
    ((s.takeRequest d k).link d).state = .idle :=
  idle_of_wire ((calm_takeRequest s d k).wire d) h

theorem decides_grantSingle (d : Degree) (i : Slot) (step : StepInFlight)
    (h : (s.link d).state = .idle) : s.Decides (s.grantSingle d i step) := by
  unfold grantSingle
  split
  · exact Decides.refl s
  · rename_i c _
    have h1 : s.Decides ((s.takeRequest d (.single i)).reserve d step.charge) :=
      (calm_takeRequest s d _).decides.trans (decides_reserve _ d _)
    have h2 : s.Decides (((s.takeRequest d (.single i)).reserve d step.charge).modCtx i
        fun c => { c with step := some step }) :=
      h1.trans (reacts_modCtx_of_rfl _ fun _ => rfl).decides
    have hi : ((((s.takeRequest d (.single i)).reserve d step.charge).modCtx i
        fun c => { c with step := some step }).link d).state = .idle :=
      idle_of_wire
        ((reacts_modCtx_of_rfl ((s.takeRequest d (.single i)).reserve d step.charge)
          (f := fun c => { c with step := some step }) fun _ => rfl).wire d)
        (idle_takeRequest s (.single i) h)
    have h3 := (h2.trans (decides_send _ d
      { kind := step.kind.command, side := c.side, entries := [.carrying i c step] } hi)).trans
        (calm_syncHolds _ i).decides
    dsimp only
    split
    · exact h3.trans (reacts_changeState_id _ i .opening nofun nofun).decides
    all_goals exact h3

theorem decides_grantGroup (d : Degree) (g : Nat) (entries : List GroupEntry) (size : Nat)
    (charged : Bool) (h : (s.link d).state = .idle) :
    s.Decides (s.grantGroup d g entries size charged) := by
  unfold grantGroup
  dsimp only
  have h1 : s.Decides ((s.takeRequest d (.group g)).reserve d
      (if charged then groupCharge entries size else 0)) :=
    (calm_takeRequest s d _).decides.trans (decides_reserve _ d _)
  have h2 : ∀ t : State, t.Reacts (entries.foldl
      (fun s e => s.modCtx e.slot fun c =>
        { c with step := some (groupStep e size charged), groupEntry := false }) t) := fun t => by
    refine Reacts.foldl (fun s e => ?_) _ t
    refine reacts_modCtx_of_rfl s ?_
    exact fun _ => rfl
  refine ((h1.trans (h2 _).decides).trans (decides_send _ d _ ?_)).trans
    (Decides.foldl (fun s e => (calm_syncHolds s _).decides) _ _)
  exact idle_of_wire ((h2 _).wire d) (idle_takeRequest s (.group g) h)

theorem decides_offerSingle (d : Degree) (i : Slot) (c : Context) (kind : StepKind)
    (dir : Option Direction) (size : Nat) (charge : Nat → Nat) (h : (s.link d).state = .idle) :
    s.Decides (s.offerSingle d i c kind dir size charge) := by
  unfold offerSingle
  split
  · split
    · exact decides_grantSingle s d i _ h
    · exact decides_grantSingle s d i _ h
    · exact (calm_holdForBudget s d _ _).decides
  · exact decides_grantSingle s d i _ h

theorem decides_reachSingle (d : Degree) (i : Slot) (kind : ReqKind) (charge : Nat)
    (h : (s.link d).state = .idle) : s.Decides (s.reachSingle d i kind charge) := by
  unfold reachSingle
  split
  · exact Decides.refl s
  · split
    · split
      · exact decides_offerSingle s d i _ _ _ _ _ h
      · split
        · exact ((calm_removeRequest s i).reacts.trans (reacts_settle _ i _)).decides
        · exact decides_offerSingle s d i _ _ _ _ _ h
      · exact decides_offerSingle s d i _ _ _ _ _ h
      · exact decides_grantSingle s d i _ h
      · exact decides_grantSingle s d i _ h
    · exact Decides.refl s

theorem reacts_settleDropped (entries : List GroupEntry) (t : State) :
    t.Reacts (entries.foldl
      (fun t e =>
        match (s.retest e).bind Sum.getRight? with
        | none => t
        | some limit => t.settle e.slot limit) t) := by
  refine Reacts.foldl (fun t e => ?_) _ t
  split
  · exact Reacts.refl t
  · exact reacts_settle t _ _

theorem reacts_dropSettled (d : Degree) (g : Nat) (entries : List GroupEntry) :
    s.Reacts (s.dropSettled d g entries) := by
  unfold dropSettled
  split
  · exact Reacts.refl s
  · exact (calm_setGroup s d g _).reacts.trans (reacts_settleDropped _ entries _)

theorem decides_offerGroup (d : Degree) (g : Nat) (kept : List GroupEntry)
    (h : (s.link d).state = .idle) : s.Decides (s.offerGroup d g kept) := by
  unfold offerGroup
  split
  · exact Decides.refl s
  · split
    · exact decides_grantGroup s d g _ _ _ h
    · exact decides_grantGroup s d g _ _ _ h
    · exact (calm_holdForBudget s d _ _).decides

theorem decides_reachGroup (d : Degree) (g : Nat) (entries : List GroupEntry)
    (h : (s.link d).state = .idle) : s.Decides (s.reachGroup d g entries) :=
  (reacts_dropSettled s d g entries).decides.trans
    (decides_offerGroup _ d g _ (idle_of_wire ((reacts_dropSettled s d g entries).wire d) h))

theorem decides_reach (d : Degree) (r : Request) (h : (s.link d).state = .idle) :
    s.Decides (s.reach d r) := by
  unfold reach
  split
  · exact Decides.refl s
  · split
    · exact (calm_holdForGuard s d _ _).decides
    · split
      · exact decides_reachSingle s d _ _ _ h
      · exact decides_reachGroup s d _ _ h

theorem decides_decision (d : Degree) (keys : List ReqKey) : s.Decides (s.decision d keys) := by
  induction keys generalizing s with
  | nil => exact Decides.refl s
  | cons k ks ih =>
    unfold decision
    split
    · rename_i h
      split
      · exact (decides_reach s d _ h).trans (ih _)
      · exact ih s
    all_goals exact Decides.refl s

theorem decides_decisions (d : Degree) (n : Nat) : s.Decides (s.decisions d n) := by
  induction n generalizing s with
  | zero => exact Decides.refl s
  | succ n ih =>
    unfold decisions
    split
    · exact (decides_decision s d _).trans (ih _)
    · exact Decides.refl s

theorem decides_arbitrate : s.Decides s.arbitrate := by
  unfold arbitrate
  split
  · exact Decides.foldl (fun s d => decides_decisions s d 66) _ s
  · exact Decides.refl s

/-! ## Endings with what they bring -/

theorem decides_couple (i : Slot) : s.Decides (s.couple i) := by
  unfold couple
  split
  · exact Decides.refl s
  · exact (reacts_partnerEnded s _).decides.trans (decides_arbitrate _)

theorem decides_withdrawFully (i : Slot) (cause : Ending) : s.Decides (s.withdrawFully i cause) :=
  ((reacts_withdraw s i cause).decides.trans (decides_arbitrate _)).trans (decides_couple _ i)

theorem decides_endFully (i : Slot) (outcome : Ending) : s.Decides (s.endFully i outcome) :=
  ((reacts_endContext s i outcome).decides.trans (decides_arbitrate _)).trans (decides_couple _ i)

end State

end Sys2Proof.Machine
end

