-- ==== Sys2Proof/Laws/Moves.lean ====
section
/-! SUPPORT. What a report, a measurement, a reply or a deadline does (`State.Moves`): one lemma for each
shared operation. -/

namespace Sys2Proof.Machine

namespace State

variable (s : State)

/-! ## Records -/

theorem moves_modCtx {i : Slot} {f : Context → Context}
    (h : ∀ c : Context, s.ctx i = some c → c.Evolves (f c))
    (hk : ∀ c : Context, s.ctx i = some c → c.KeepsKeyer (f c)) : s.Moves (s.modCtx i f) := by
  unfold modCtx
  split
  · exact Moves.refl s
  · rename_i c hc
    refine ⟨still_putRecord s i _, fun d => ?_, fun d => Or.inl (wire_putRecord s i _ d), fun j => ?_,
      marks_putRecord s i _, keyersInv_putRecord s hc (hk c hc)⟩
    · simp only [budget, budgets_putRecord]
      exact .same _
    · rw [ctx_putRecord]
      split
      · rename_i e
        subst e
        rw [hc]
        exact h c hc
      · exact sameSlot_refl Context.Evolves.refl _

/-- A change of fields that no rule of the relation mentions. -/
theorem moves_modCtx_of_rfl {i : Slot} {f : Context → Context}
    (h : ∀ c : Context, f c = { f c with
      state := c.state, role := c.role, tone := c.tone, channel := c.channel, ingress := c.ingress
      egress := c.egress, priority := c.priority, group := c.group
      targetOverride := c.targetOverride, sNom := c.sNom, tTol := c.tTol, deadline := c.deadline
      outcome := c.outcome, portClosed := c.portClosed, elapsed := c.elapsed, frozen := c.frozen
      keyer := c.keyer, partner := c.partner, drift := c.drift, cause := c.cause }) :
    s.Moves (s.modCtx i f) := by
  refine moves_modCtx s (fun c _ => evolves_of_rfl (h c)) fun c _ => ?_
  rw [h c]
  exact ⟨rfl, fun _ => id⟩

theorem moves_arbitrate : s.Moves s.arbitrate := Decides.moves (decides_arbitrate s)

theorem moves_withdrawFully (i : Slot) (cause : Ending) : s.Moves (s.withdrawFully i cause) :=
  Decides.moves (decides_withdrawFully s i cause)

theorem moves_endFully (i : Slot) (outcome : Ending) : s.Moves (s.endFully i outcome) :=
  Decides.moves (decides_endFully s i outcome)

/-! ## Reports and measurements -/

theorem decides_watchArmed (i : Slot) (c : Context) (r : WatchReport) : s.Decides (s.watchArmed i c r) := by
  unfold watchArmed
  repeat' split
  all_goals first
    | with_reducible exact Decides.refl s
    | with_reducible exact (calm_removeRequest s i).decides
    | with_reducible exact (calm_postOpen s i _).decides

theorem decides_watchCollision (i : Slot) (was now : Bool) : s.Decides (s.watchCollision i was now) := by
  unfold watchCollision
  repeat' split
  all_goals first
    | with_reducible exact Decides.refl s
    | with_reducible exact (calm_removeRequest s i).decides
    | with_reducible exact (reacts_postingTest s i _).decides

theorem decides_watchHead (i : Slot) (c : Context) (r : WatchReport) (was : Bool) :
    s.Decides (s.watchHead i c r was) := by
  unfold watchHead
  repeat' split
  all_goals first
    | with_reducible exact Decides.refl s
    | with_reducible exact (reacts_lose s i).decides
    | with_reducible exact decides_withdrawFully s i _
    | with_reducible exact decides_watchCollision s i _ _

theorem reacts_hearCommissioned (i : Slot) (c : Context) : s.Reacts (s.hearCommissioned i c) := by
  unfold hearCommissioned
  split
  · exact reacts_commissionWith_id s i
  · refine Reacts.trans (reacts_modCtx_of_rfl s ?_) (calm_removeRequest _ i).reacts
    exact fun _ => rfl

theorem reacts_watchProgress (i : Slot) (c : Context) (r : WatchReport) :
    s.Reacts (s.watchProgress i c r) := by
  unfold watchProgress
  repeat' split
  all_goals first
    | with_reducible exact Reacts.refl s
    | with_reducible exact reacts_enterRamping s i _
    | with_reducible exact (calm_removeRequest s i).reacts
    | with_reducible exact reacts_postingTest s i _

theorem reacts_noteReady (i : Slot) (c : Context) (r : WatchReport) :
    s.Reacts (s.noteReady i c r) := by
  unfold noteReady
  split
  all_goals first
    | with_reducible exact Reacts.refl s
    | with_reducible exact reacts_modFlags s i _

theorem decides_watchFollower (i : Slot) (c : Context) (r : WatchReport) :
    s.Decides (s.watchFollower i c r) := by
  unfold watchFollower
  refine (reacts_noteReady s i c r).decides.trans ?_
  repeat' split
  all_goals first
    | with_reducible exact (reacts_lose _ i).decides
    | with_reducible exact decides_withdrawFully _ i _
    | with_reducible exact (reacts_hearCommissioned _ i c).decides
    | with_reducible exact (reacts_watchProgress _ i c r).decides

theorem reacts_watchWithdrawing (i : Slot) (c : Context) (r : WatchReport) :
    s.Reacts (s.watchWithdrawing i c r) := by
  unfold watchWithdrawing
  repeat' split
  · exact (calm_postBlock s i).reacts
  · exact reacts_modCtx_of_rfl s fun _ => rfl
  · exact Reacts.refl s

theorem decides_actOnReport (i : Slot) (c : Context) (r : WatchReport) :
    s.Decides (s.actOnReport i c r) := by
  unfold actOnReport
  repeat' split
  all_goals first
    | with_reducible exact Decides.refl s
    | with_reducible exact decides_watchArmed s i c r
    | with_reducible exact decides_watchHead s i c r _
    | with_reducible exact decides_watchFollower s i c r
    | with_reducible exact (reacts_watchWithdrawing s i c r).decides

theorem moves_takeWatch (i : Slot) : s.Moves (s.takeWatch i) := by
  unfold takeWatch
  split
  · exact Moves.refl s
  · dsimp only
    refine Moves.trans (Moves.trans ?_ (Decides.moves (decides_actOnReport _ i _ _))) (moves_arbitrate _)
    refine (reacts_modCtx_of_rfl s ?_).moves
    exact fun _ => rfl

theorem reacts_mapDrift (i : Slot) (f : Nat → Nat) :
    s.Reacts (s.modCtx i fun c => { c with drift := c.drift.map f }) :=
  reacts_modCtx s
    (fun _ _ =>
      ⟨⟨rfl, fun h => ⟨h, rfl, rfl, rfl⟩, Or.inl, Or.inl, id, fun h _ => ⟨h, rfl⟩, Or.inl rfl,
        Or.inl rfl, rfl, fun f =>
          ⟨by simpa using f.drift, f.cause, f.outcome, f.portClosed⟩⟩, rfl, rfl, rfl, rfl⟩)
    fun _ _ => ⟨rfl, fun _ => id⟩

theorem reacts_watchDrift (i : Slot) (c : Context) (p : Nat) (stable : Bool) :
    s.Reacts (s.watchDrift i c p stable) := by
  unfold watchDrift
  repeat' split
  · exact reacts_enterRamping s i _
  · exact reacts_mapDrift s i _
  · exact reacts_mapDrift s i _

theorem reacts_actOnMeasure (i : Slot) (c : Context) (p : Nat) (stable : Bool) :
    s.Reacts (s.actOnMeasure i c p stable) := by
  unfold actOnMeasure
  split
  all_goals first
    | with_reducible exact Reacts.refl s
    | with_reducible exact reacts_postingTest s i _
    | with_reducible exact reacts_watchDrift s i c p stable
    | with_reducible exact (calm_postWithdrawal s i).reacts

theorem moves_takeMeasure (i : Slot) : s.Moves (s.takeMeasure i) := by
  unfold takeMeasure
  split
  · exact Moves.refl s
  · split
    · dsimp only
      refine Moves.trans (Moves.trans ?_ (reacts_actOnMeasure _ i _ _ _).moves) (moves_arbitrate _)
      refine moves_modCtx_of_rfl s ?_
      exact fun _ => rfl
    · exact Moves.refl s

theorem moves_receive (t : Tap) (i : Slot) : s.Moves (s.receive t i) := by
  unfold receive
  repeat' split
  · exact Moves.refl s
  · exact moves_takeWatch s i
  · exact moves_takeMeasure s i
  · exact Moves.refl s

theorem moves_receiveAll (t : Tap) : s.Moves (s.receiveAll t) :=
  Moves.foldl (fun s i => moves_receive s t i) _ s

/-! ## Replies -/

theorem moves_applyDone (i : Slot) (a : Atten) : s.Moves (s.applyDone i a) := by
  unfold applyDone
  refine Moves.trans (moves_modCtx_of_rfl s ?_) (calm_syncHolds _ i).moves
  exact fun _ => rfl

theorem decides_doneRead (i : Slot) (a : Atten) : s.Decides (s.doneRead i a) := by
  unfold doneRead
  split
  · exact Decides.refl s
  · rename_i c hc
    split
    · rename_i ha
      split
      · refine (reacts_commissionWith s i _ (fun c' hc' hl => ?_) ?_).decides
        case refine_2 => exact fun _ => ⟨rfl, rfl⟩
        rw [hc] at hc'
        cases hc'
        have e := turns_enter hl nofun nofun
        refine ⟨⟨e.identity, fun h => ?_, e.withdrawing, e.commissioned, e.adopting,
          fun _ h => absurd ha h, Or.inr rfl, e.keyer, e.partner, fun f =>
            ⟨(e.fields f).drift, (e.fields f).cause, (e.fields f).outcome,
              (e.fields f).portClosed⟩⟩, rfl, rfl, rfl, rfl⟩
        simp [h] at ha
      · exact decides_endFully s i _
      · exact decides_endFully s i _
    · exact Decides.refl s

theorem decides_doneBlock (i : Slot) (c : Context) : s.Decides (s.doneBlock i c) := by
  unfold doneBlock
  split
  all_goals first
    | with_reducible exact Decides.refl s
    | exact (reacts_changeState_id s i .armed nofun nofun).decides
    | with_reducible exact decides_endFully s i _

theorem reacts_doneStep (i : Slot) (c : Context) : s.Reacts (s.doneStep i c) := by
  unfold doneStep
  repeat' split
  all_goals first
    | with_reducible exact Reacts.refl s
    | with_reducible exact reacts_commissionWith_id s i
    | with_reducible exact reacts_enterRamping s i _
    | with_reducible exact reacts_enterFollowing s i
    | with_reducible exact (calm_postBlock s i).reacts
    | with_reducible exact (calm_postWithdrawal s i).reacts

theorem calm_doneWithdrawStep (i : Slot) : s.Calm (s.doneWithdrawStep i) := by
  unfold doneWithdrawStep
  repeat' split
  · exact Calm.refl s
  · exact calm_postBlock s i
  · exact Calm.refl s

theorem decides_afterDone (i : Slot) (c : Context) (kind : StepKind) (a : Atten) :
    s.Decides (s.afterDone i c kind a) := by
  unfold afterDone
  split
  · exact decides_doneRead s i a
  · exact decides_doneBlock s i c
  · exact (reacts_doneStep s i c).decides
  · exact (reacts_doneStep s i c).decides
  · exact (reacts_doneStep s i c).decides
  · exact (calm_doneWithdrawStep s i).decides

theorem reacts_discardReply (i : Slot) : s.Reacts (s.discardReply i) := reacts_modFlags s i _

theorem moves_doneEntry (e : CommandEntry) (read : Atten) : s.Moves (s.doneEntry e read) := by
  unfold doneEntry
  split
  · exact Moves.refl s
  · split
    · exact Moves.refl s
    · split
      · exact (moves_applyDone s _ _).trans (Decides.moves (decides_afterDone _ _ _ _ _))
      · exact (reacts_discardReply s _).moves

theorem moves_applyRefuse (i : Slot) (kind : StepKind) (reason : Nat) :
    s.Moves (s.applyRefuse i kind reason) := by
  unfold applyRefuse
  refine Moves.trans (moves_modCtx_of_rfl s ?_) (calm_syncHolds _ i).moves
  exact fun _ => rfl

theorem reacts_refusedWithdrawing (i : Slot) (kind : StepKind) :
    s.Reacts (s.refusedWithdrawing i kind) := by
  unfold refusedWithdrawing
  cases kind
  all_goals first
    | with_reducible exact (calm_postBlock s i).reacts
    | skip
  refine Reacts.trans (reacts_modCtx s (fun c _ => ?_) ?_) (calm_postBlock _ i).reacts
  case refine_2 => exact fun _ _ => ⟨rfl, fun _ => id⟩
  exact ⟨⟨rfl, fun h => ⟨h, rfl, rfl, rfl⟩, Or.inl, Or.inl, id, fun h _ => ⟨h, rfl⟩, Or.inl rfl,
    Or.inl rfl, rfl, fun f => ⟨f.drift, by simpa using f.cause, f.outcome, f.portClosed⟩⟩,
    rfl, rfl, rfl, rfl⟩

theorem decides_afterRefuse (i : Slot) (c : Context) (kind : StepKind) :
    s.Decides (s.afterRefuse i c kind) := by
  unfold afterRefuse
  repeat' split
  all_goals first
    | with_reducible exact Decides.refl s
    | with_reducible exact decides_endFully s i _
    | with_reducible exact decides_withdrawFully s i _
    | with_reducible exact (reacts_refusedWithdrawing s i _).decides

theorem moves_refuseEntry (e : CommandEntry) (reason : Nat) : s.Moves (s.refuseEntry e reason) := by
  unfold refuseEntry
  split
  · exact Moves.refl s
  · split
    · exact Moves.refl s
    · split
      · exact (moves_applyRefuse s _ _ _).trans (Decides.moves (decides_afterRefuse _ _ _ _))
      · exact (reacts_discardReply s _).moves

theorem reacts_clearSteps (entries : List CommandEntry) : s.Reacts (s.clearSteps entries) := by
  unfold clearSteps
  refine Reacts.foldl (fun s e => ?_) _ s
  split
  · exact Reacts.refl s
  · exact reacts_modCtx_of_rfl s fun _ => rfl

/-! ## Deadlines -/

theorem decides_expireDeadline (i : Slot) : s.Decides (s.expireDeadline i) := by
  unfold expireDeadline
  repeat' split
  all_goals first
    | with_reducible exact Decides.refl s
    | with_reducible exact decides_endFully s i _
    | with_reducible exact decides_withdrawFully s i _

end State

end Sys2Proof.Machine
end

