-- ==== Sys2Proof/Laws/Steady.lean ====
section
/-! SUPPORT. The arbiters take records from ARMED, RAMPING and SETTLED alone; a record in any other state
keeps all but its step in flight, its hold flags and its group entry mark. -/

namespace Sys2Proof.Machine

/-- What a decision does to a record that it takes to no other state: a step, hold flags, a group entry
mark. The states an arbiter's decision takes a record from are ARMED (R75, R96), RAMPING (R123) and, for
the partner of a TAIL that settles, ARMED (R81) and SETTLED (R82, R102). -/
def Context.Steadily (c d : Context) : Prop :=
  c.state = .armed ∨ c.state = .ramping ∨ c.state = .settled ∨
    d = { c with
      step := d.step, groupEntry := d.groupEntry
      flags :=
        { c.flags with
          budgetWait := d.flags.budgetWait, guardHold := d.flags.guardHold
          linkHold := d.flags.linkHold } }

/-- The states are steady slot by slot. -/
def State.Steady (s t : State) : Prop := ∀ i, sameSlot Context.Steadily (s.ctx i) (t.ctx i)

theorem Context.Calmly.steadily (c d : Context) (h : c.Calmly d) : c.Steadily d := by
  unfold Context.Calmly at h
  refine Or.inr (Or.inr (Or.inr ?_))
  rw [h]

theorem Context.Steadily.refl (c : Context) : c.Steadily c := Or.inr (Or.inr (Or.inr rfl))

theorem Context.Steadily.trans (a b c : Context) (h1 : a.Steadily b) (h2 : b.Steadily c) :
    a.Steadily c := by
  unfold Context.Steadily at *
  rcases h1 with h | h | h | h
  · exact Or.inl h
  · exact Or.inr (Or.inl h)
  · exact Or.inr (Or.inr (Or.inl h))
  · have hs : b.state = a.state := by rw [h]
    rw [hs] at h2
    rcases h2 with k | k | k | k
    · exact Or.inl k
    · exact Or.inr (Or.inl k)
    · exact Or.inr (Or.inr (Or.inl k))
    · refine Or.inr (Or.inr (Or.inr ?_))
      rw [k, h]

namespace State

theorem Steady.refl (s : State) : s.Steady s := fun _ => sameSlot_refl Context.Steadily.refl _

theorem Steady.trans {s t u : State} (h1 : s.Steady t) (h2 : t.Steady u) : s.Steady u :=
  fun i => sameSlot_trans Context.Steadily.trans (h1 i) (h2 i)

theorem Calm.steady {s t : State} (h : s.Calm t) : s.Steady t :=
  fun i => sameSlot_mono Context.Calmly.steadily (h.records i)

theorem steady_of_contexts {s t : State} (h : t.contexts = s.contexts) : s.Steady t := by
  intro i
  have e : t.ctx i = s.ctx i := by simp only [ctx, h]
  rw [e]
  exact sameSlot_refl Context.Steadily.refl _

theorem Steady.foldl {α : Type} {f : State → α → State} (h : ∀ (s : State) (a : α), s.Steady (f s a))
    (l : List α) (s : State) : s.Steady (l.foldl f s) := by
  induction l generalizing s with
  | nil => exact Steady.refl s
  | cons a l ih => exact (h s a).trans (ih (f s a))

variable (s : State)

theorem steady_modCtx {i : Slot} {f : Context → Context}
    (h : ∀ c : Context, s.ctx i = some c → c.Steadily (f c)) : s.Steady (s.modCtx i f) := by
  unfold modCtx
  split
  · exact Steady.refl s
  · rename_i c hc
    have key : s.Steady (s.setRecord i (some (f c))) := by
      intro j
      rw [ctx_setRecord]
      split
      · rename_i e
        subst e
        rw [hc]
        exact h c hc
      · exact sameSlot_refl Context.Steadily.refl _
    unfold putRecord
    split
    · exact key
    · exact key.trans (calm_markChange _ i).steady

theorem steady_stageWord (i : Slot) : s.Steady (s.stageWord i) := by
  unfold stageWord
  repeat' split
  all_goals first
    | with_reducible exact Steady.refl s
    | exact steady_of_contexts rfl

theorem steady_lingerKeyer (i : Slot) : s.Steady (s.lingerKeyer i) := by
  unfold lingerKeyer
  repeat' split
  all_goals first
    | with_reducible exact Steady.refl s
    | exact steady_of_contexts rfl

theorem steady_startKeyer (i : Slot) : s.Steady (s.startKeyer i) := by
  unfold startKeyer
  repeat' split
  all_goals first
    | with_reducible exact Steady.refl s
    | exact steady_of_contexts rfl

theorem ctx_modCtx_of_ne {i j : Slot} (h : j ≠ i) (f : Context → Context) :
    (s.modCtx i f).ctx j = s.ctx j := by
  have key : ∀ c, (s.setRecord i c).ctx j = s.ctx j := by
    intro c
    rw [ctx_setRecord]
    split
    · rename_i e
      exact absurd e.symm h
    · rfl
  have mark : ∀ t : State, (t.markChange i).ctx j = t.ctx j := by
    intro t
    unfold markChange
    split <;> rfl
  unfold modCtx
  split
  · rfl
  · unfold putRecord
    split
    · exact key _
    · rw [mark, key]

/-- A change of one record's state is steady for the others. -/
theorem steady_off_changeState {i j : Slot} (hj : j ≠ i) (st : CtxState) (f : Context → Context) :
    sameSlot Context.Steadily (s.ctx j) ((s.changeState i st f).ctx j) := by
  unfold changeState
  split
  · exact Steady.refl s j
  · rename_i c hc
    split
    · have h1 : sameSlot Context.Steadily (s.ctx j)
          (((s.modCtx i fun c => f (c.enter st)).stageWord i).ctx j) := by
        refine sameSlot_trans Context.Steadily.trans ?_ (steady_stageWord _ i j)
        rw [ctx_modCtx_of_ne s hj]
        exact Steady.refl s j
      have h2 : sameSlot Context.Steadily (s.ctx j) ((if st.clearsRequest then
          ((s.modCtx i fun c => f (c.enter st)).stageWord i).removeRequest i
          else (s.modCtx i fun c => f (c.enter st)).stageWord i).ctx j) := by
        split
        · exact sameSlot_trans Context.Steadily.trans h1 ((calm_removeRequest _ i).steady j)
        · exact h1
      dsimp only
      split
      · exact sameSlot_trans Context.Steadily.trans h2 ((calm_evaluateGroupOf _ c).steady j)
      · exact h2
    · exact Steady.refl s j

/-- The slots that hold a record are the same. -/
def sameShape (o p : Option Context) : Prop := sameSlot (fun _ _ => True) o p

theorem sameShape_of {R : Context → Context → Prop} {o p : Option Context} (h : sameSlot R o p) :
    sameShape o p :=
  sameSlot_mono (fun _ _ _ => trivial) h

/-- A change of a record is steady when it is so for the others and the record may be taken. -/
theorem steady_of_taken {t : State} {i : Slot} (hp : sameShape (s.ctx i) (t.ctx i))
    (h : ∀ c : Context, s.ctx i = some c →
      c.state = .armed ∨ c.state = .ramping ∨ c.state = .settled)
    (hj : ∀ j, j ≠ i → sameSlot Context.Steadily (s.ctx j) (t.ctx j)) : s.Steady t := by
  intro j
  by_cases e : j = i
  · subst e
    cases hs : s.ctx j <;> cases ht : t.ctx j <;> simp only [sameShape, hs, ht, sameSlot] at hp ⊢
    rename_i c d
    rcases h c hs with m | m | m
    · exact Or.inl m
    · exact Or.inr (Or.inl m)
    · exact Or.inr (Or.inr (Or.inl m))
  · exact hj j e

theorem steady_off_commission {i j : Slot} (hj : j ≠ i) :
    sameSlot Context.Steadily (s.ctx j) ((s.commission i).ctx j) :=
  sameSlot_trans Context.Steadily.trans (steady_off_changeState s hj _ _) (steady_lingerKeyer _ i j)

theorem steady_commission {i : Slot} {c : Context} (hc : s.ctx i = some c) (h : c.state = .settled) :
    s.Steady (s.commission i) := by
  refine steady_of_taken s (sameShape_of ((reacts_commission s i).records i)) (fun c' hc' => ?_)
    fun j hj => steady_off_commission s hj
  rw [hc] at hc'
  cases hc'
  exact Or.inr (Or.inr h)

theorem steady_release {i : Slot} {c : Context} (hc : s.ctx i = some c) (h : c.state = .armed) :
    s.Steady (s.release i) := by
  unfold release
  refine Steady.trans (Steady.trans (steady_modCtx s fun c' hc' => ?_) (steady_startKeyer _ i))
    (calm_markChange _ i).steady
  rw [hc] at hc'
  cases hc'
  exact Or.inl h

theorem steady_partnerOfSettledTail (p : Slot) : s.Steady (s.partnerOfSettledTail p) := by
  unfold partnerOfSettledTail
  split
  · exact Steady.refl s
  · rename_i c hc
    split
    · split
      · rename_i h
        exact steady_release s hc h.1
      · exact Steady.refl s
    · split
      · rename_i h
        exact steady_commission s hc h
      · exact Steady.refl s
    · exact Steady.refl s
    · exact Steady.refl s

/-- What follows an entry to SETTLED is steady for the other records. -/
theorem steady_off_afterSettled {i j : Slot} (hj : j ≠ i) :
    sameSlot Context.Steadily (s.ctx j) ((s.afterSettled i).ctx j) := by
  unfold afterSettled
  have hr : sameSlot Context.Steadily (s.ctx j) (s.ctx j) := Steady.refl s j
  have hp : ∀ p, sameSlot Context.Steadily (s.ctx j) ((s.partnerOfSettledTail p).ctx j) :=
    fun p => steady_partnerOfSettledTail s p j
  repeat' split
  all_goals first
    | with_reducible exact hp _
    | with_reducible exact steady_off_commission s hj
    | with_reducible exact hr

/-- R79, R101, R123: a RAMPING record that settles. -/
theorem steady_settle (i : Slot) (limit : Option Limit)
    (h : ∀ c : Context, s.ctx i = some c → c.state = .ramping) : s.Steady (s.settle i limit) :=
  steady_of_taken s (sameShape_of ((reacts_settle s i limit).records i)) (fun c hc => Or.inr (Or.inl (h c hc)))
    fun _ hj => sameSlot_trans Context.Steadily.trans (steady_off_changeState s hj _ _)
      (steady_off_afterSettled _ hj)

/-! ## The arbiter -/

theorem steady_reserve (d : Degree) (charge : Nat) : s.Steady (s.reserve d charge) :=
  steady_of_contexts rfl

theorem steady_send (d : Degree) (cmd : LinkCommand) : s.Steady (s.send d cmd) :=
  steady_of_contexts rfl

theorem steady_writeStep (i : Slot) (step : StepInFlight) :
    s.Steady (s.modCtx i fun c => { c with step := some step }) :=
  steady_modCtx s fun _ _ => Or.inr (Or.inr (Or.inr rfl))

theorem steady_grantSingle (d : Degree) (i : Slot) (step : StepInFlight)
    (h : ∀ c : Context, s.ctx i = some c → step.kind = .openPort → c.state = .armed) :
    s.Steady (s.grantSingle d i step) := by
  unfold grantSingle
  split
  · exact Steady.refl s
  · rename_i c hc
    have h1 := (calm_takeRequest s d (.single i)).steady.trans
      (steady_reserve (s.takeRequest d (.single i)) d step.charge)
    have h2 := h1.trans (steady_writeStep _ i step)
    have h3 := (h2.trans (steady_send _ d
      { kind := step.kind.command, side := c.side, entries := [.carrying i c step] })).trans
        (calm_syncHolds _ i).steady
    dsimp only
    split
    · rename_i hk
      refine steady_of_taken s ?_ (fun c' hc' => Or.inl (h c' hc' hk)) fun j hj =>
        sameSlot_trans Context.Steadily.trans (h3 j) (steady_off_changeState _ hj _ _)
      exact sameSlot_trans (fun _ _ _ _ _ => trivial) (sameShape_of (h3 i))
        (sameShape_of ((reacts_changeState_id _ i .opening nofun nofun).records i))
    all_goals exact h3

theorem steady_grantGroup (d : Degree) (g : Nat) (entries : List GroupEntry) (size : Nat)
    (charged : Bool) : s.Steady (s.grantGroup d g entries size charged) := by
  unfold grantGroup
  dsimp only
  refine Steady.trans ((((calm_takeRequest s d (.group g)).steady.trans (steady_reserve _ d _)).trans
    (Steady.foldl (fun s e => ?_) entries _)).trans (steady_send _ d _))
    (Steady.foldl (fun s e => (calm_syncHolds s _).steady) _ _)
  refine steady_modCtx s fun c _ => Or.inr (Or.inr (Or.inr ?_))
  rfl

theorem steady_offerSingle (d : Degree) (i : Slot) (c : Context) (kind : StepKind)
    (dir : Option Direction) (size : Nat) (charge : Nat → Nat)
    (h : ∀ c : Context, s.ctx i = some c → kind = .openPort → c.state = .armed) :
    s.Steady (s.offerSingle d i c kind dir size charge) := by
  unfold offerSingle
  split
  · split
    · exact steady_grantSingle s d i _ h
    · exact steady_grantSingle s d i _ h
    · exact (calm_holdForBudget s d _ _).steady
  · exact steady_grantSingle s d i _ h

theorem steady_reachSingle (d : Degree) (i : Slot) (kind : ReqKind) (charge : Nat) :
    s.Steady (s.reachSingle d i kind charge) := by
  unfold reachSingle
  split
  · exact Steady.refl s
  · rename_i c hc
    split
    · rename_i hf
      have hs : ∀ c' : Context, s.ctx i = some c' → kind.fits c'.state = true := by
        intro c' hc'
        rw [hc] at hc'
        cases hc'
        exact hf
      split
      · refine steady_offerSingle s d i _ _ _ _ _ fun c' hc' _ => ?_
        simpa [ReqKind.fits] using hs c' hc'
      · split
        · refine (calm_removeRequest s i).steady.trans (steady_settle _ i _ fun c' hc' => ?_)
          have k := (calm_removeRequest s i).records i
          rw [hc, hc'] at k
          have e : c'.state = c.state := by
            have k' : c.Calmly c' := k
            rw [k']
          rw [e]
          simpa [ReqKind.fits] using hf
        · exact steady_offerSingle s d i _ _ _ _ _ fun _ _ k => by cases k
      · exact steady_offerSingle s d i _ _ _ _ _ fun _ _ k => by cases k
      · exact steady_grantSingle s d i _ fun _ _ k => by cases k
      · exact steady_grantSingle s d i _ fun _ _ k => by cases k
    · exact Steady.refl s

/-- Settling a record that was RAMPING keeps what has been steady. -/
theorem Steady.settle {s t : State} (h : s.Steady t) (i : Slot) (limit : Option Limit)
    (hs : ∀ c : Context, s.ctx i = some c → c.state = .ramping) : s.Steady (t.settle i limit) :=
  steady_of_taken s
    (sameSlot_trans (fun _ _ _ _ _ => trivial) (sameShape_of (h i))
      (sameShape_of ((reacts_settle t i limit).records i)))
    (fun c hc => Or.inr (Or.inl (hs c hc)))
    fun j hj => sameSlot_trans Context.Steadily.trans (h j)
      (sameSlot_trans Context.Steadily.trans (steady_off_changeState t hj _ _)
        (steady_off_afterSettled _ hj))

/-- R146: only RAMPING records are settled at a group's grant. -/
theorem steady_settleDropped (entries : List GroupEntry) : s.Steady (s.settleDropped entries) := by
  have key : ∀ (l : List GroupEntry) (t : State), s.Steady t → s.Steady (l.foldl
      (fun t e =>
        match (s.retest e).bind Sum.getRight? with
        | none => t
        | some limit => t.settle e.slot limit) t) := by
    intro l
    induction l with
    | nil => exact fun t h => h
    | cons e l ih =>
      intro t h
      rw [List.foldl_cons]
      refine ih _ ?_
      split
      · exact h
      · rename_i limit hl
        refine h.settle e.slot limit fun c hc => ?_
        simp only [retest, hc] at hl
        by_contra hr
        simp [hr] at hl
  exact key entries s (Steady.refl s)

theorem steady_reachGroup (d : Degree) (g : Nat) (entries : List GroupEntry) :
    s.Steady (s.reachGroup d g entries) := by
  have h1 : s.Steady (s.dropSettled d g entries) := by
    unfold dropSettled
    split
    · exact Steady.refl s
    · exact (calm_setGroup s d g _).steady.trans (steady_settleDropped _ entries)
  refine h1.trans ?_
  unfold reachGroup offerGroup
  dsimp only
  repeat' split
  · exact Steady.refl _
  · exact steady_grantGroup _ d g _ _ _
  · exact steady_grantGroup _ d g _ _ _
  · exact (calm_holdForBudget _ d _ _).steady

theorem steady_reach (d : Degree) (r : Request) : s.Steady (s.reach d r) := by
  unfold reach
  repeat' split
  · exact Steady.refl s
  · exact (calm_holdForGuard s d _ _).steady
  · exact steady_reachSingle s d _ _ _
  · exact steady_reachGroup s d _ _

theorem steady_decision (d : Degree) (keys : List ReqKey) : s.Steady (s.decision d keys) := by
  induction keys generalizing s with
  | nil => exact Steady.refl s
  | cons k ks ih =>
    unfold decision
    split
    · split
      · exact (steady_reach s d _).trans (ih _)
      · exact ih s
    all_goals exact Steady.refl s

theorem steady_decisions (d : Degree) (n : Nat) : s.Steady (s.decisions d n) := by
  induction n generalizing s with
  | zero => exact Steady.refl s
  | succ n ih =>
    unfold decisions
    split
    · exact (steady_decision s d _).trans (ih _)
    · exact Steady.refl s

/-- R165, R166: the decisions of the arbiters are steady. -/
theorem steady_arbitrate : s.Steady s.arbitrate := by
  unfold arbitrate
  split
  · exact Steady.foldl (fun s d => steady_decisions s d 66) _ s
  · exact Steady.refl s

/-- R165: with no decision due the arbiters do nothing. -/
theorem arbitrate_of_not_due (h : ∀ d, s.decisionDue d = false) : s.arbitrate = s := by
  unfold arbitrate
  split
  · have key : ∀ l : List Degree, l.foldl (fun s d => s.decisions d 66) s = s := by
      intro l
      induction l with
      | nil => rfl
      | cons d l ih =>
        rw [List.foldl_cons]
        have e : s.decisions d 66 = s := by
          unfold decisions
          rw [h d]
          rfl
        rw [e, ih]
    exact key _
  · rfl

/-! ## Withdrawals and endings -/

/-- R91, R92: a partner's reaction and the decision after it leave every other record steady. -/
theorem steady_off_partnerEnded {p j : Slot} (hj : j ≠ p) :
    sameSlot Context.Steadily (s.ctx j) ((s.partnerEnded p).ctx j) := by
  have hr : sameSlot Context.Steadily (s.ctx j) (s.ctx j) := Steady.refl s j
  have hw : ∀ cause, sameSlot Context.Steadily (s.ctx j) ((s.withdraw p cause).ctx j) := fun cause =>
    sameSlot_trans Context.Steadily.trans (steady_off_changeState s hj _ _)
      ((calm_postWithdrawal _ p).steady j)
  have he : ∀ outcome, sameSlot Context.Steadily (s.ctx j) ((s.endContext p outcome).ctx j) := by
    intro outcome
    refine sameSlot_trans Context.Steadily.trans ?_ (steady_off_changeState _ hj _ _)
    unfold releaseKeyer
    repeat' split
    · exact hr
    · exact hr
    · rw [ctx_modCtx_of_ne _ hj]
      exact hr
  unfold partnerEnded
  repeat' split
  all_goals first
    | with_reducible exact hr
    | with_reducible exact hw _
    | with_reducible exact he _

/-- R112: coupling leaves the record it starts from steady, since a TAIL's partner is a head. -/
theorem steady_couple_self (i : Slot) : sameSlot Context.Steadily (s.ctx i) ((s.couple i).ctx i) := by
  unfold couple
  split
  · exact Steady.refl s i
  · rename_i p hp
    refine sameSlot_trans Context.Steadily.trans ?_ (steady_arbitrate _ i)
    by_cases e : i = p
    · subst e
      have hs : s.partnerEnded i = s := by
        unfold partnerEnded
        unfold coupled at hp
        split
        · rfl
        · rename_i c hc
          simp only [hc] at hp
          split
          · rename_i hh
            have : c.isTail = false := by
              unfold Context.head at hh
              unfold Context.isTail
              cases hr : c.role <;> simp [hr] at hh ⊢
            simp [this] at hp
          · rfl
      rw [hs]
      exact Steady.refl s i
    · exact steady_off_partnerEnded s e

/-! ## The record of a withdrawal or an ending -/

theorem ctx_modCtx_self {i : Slot} {c : Context} (hc : s.ctx i = some c) (f : Context → Context) :
    (s.modCtx i f).ctx i = some (f c) := by
  have key : (s.setRecord i (some (f c))).ctx i = some (f c) := by rw [ctx_setRecord]; simp
  unfold modCtx
  rw [hc]
  dsimp only
  unfold putRecord
  split
  · exact key
  · unfold markChange
    split
    · exact key
    · exact key

/-- What a calm operation leaves of a record. -/
theorem Calm.record {s t : State} (h : s.Calm t) {i : Slot} {c : Context} (hc : s.ctx i = some c) :
    ∃ d, t.ctx i = some d ∧ c.Calmly d := by
  have k := h.records i
  rw [hc] at k
  cases ht : t.ctx i with
  | none => rw [ht] at k; exact k.elim
  | some d => rw [ht] at k; exact ⟨d, rfl, k⟩

theorem ctx_stageWord (i j : Slot) : (s.stageWord i).ctx j = s.ctx j := by
  unfold stageWord
  repeat' split
  all_goals rfl

/-- A record after a change of its own state. -/
theorem changeState_self {i : Slot} {c : Context} {st : CtxState} (hc : s.ctx i = some c)
    (hl : c.state.leadsTo st = true) (f : Context → Context) :
    ∃ d, (s.changeState i st f).ctx i = some d ∧ (f (c.enter st)).Calmly d := by
  have h1 : ((s.modCtx i fun c => f (c.enter st)).stageWord i).ctx i = some (f (c.enter st)) := by
    rw [ctx_stageWord, ctx_modCtx_self s hc]
  have h2 : ∃ d, (if st.clearsRequest then
      ((s.modCtx i fun c => f (c.enter st)).stageWord i).removeRequest i
      else (s.modCtx i fun c => f (c.enter st)).stageWord i).ctx i = some d ∧
        (f (c.enter st)).Calmly d := by
    split
    · exact (calm_removeRequest _ i).record h1
    · exact ⟨_, h1, Context.Calmly.refl _⟩
  obtain ⟨d, hd, hcd⟩ := h2
  unfold changeState
  rw [hc]
  dsimp only
  rw [if_pos hl]
  split
  · obtain ⟨d', hd', hcd'⟩ := (calm_evaluateGroupOf _ c).record hd
    exact ⟨d', hd', .trans _ _ _ hcd hcd'⟩
  · exact ⟨d, hd, hcd⟩

/-- What a steady operation leaves of a record in a state that no decision takes it from. -/
theorem keeps_of_steadily {c : Context} {o : Option Context} (h : sameSlot Context.Steadily (some c) o)
    (ha : c.state ≠ .armed) (hr : c.state ≠ .ramping) (hs : c.state ≠ .settled) :
    ∃ d, o = some d ∧ d = { c with
      step := d.step, groupEntry := d.groupEntry
      flags :=
        { c.flags with
          budgetWait := d.flags.budgetWait, guardHold := d.flags.guardHold
          linkHold := d.flags.linkHold } } := by
  cases o with
  | none => exact h.elim
  | some d =>
    rcases h with k | k | k | k
    · exact absurd k ha
    · exact absurd k hr
    · exact absurd k hs
    · exact ⟨d, rfl, k⟩

/-- R9: the record of a withdrawal, after everything it brings. -/
theorem withdrawFully_self {i : Slot} {c : Context} (hc : s.ctx i = some c)
    (hl : c.state.leadsTo .withdrawing = true) (cause : Ending) :
    ∃ d, (s.withdrawFully i cause).ctx i = some d ∧ d.state = .withdrawing ∧
      d.cause = some cause ∧ d.keyer = c.keyer := by
  obtain ⟨d1, h1, c1⟩ := changeState_self s hc hl fun c => { c with cause := some cause }
  obtain ⟨d2, h2, c2⟩ := (calm_postWithdrawal _ i).record h1
  have c12 := Context.Calmly.trans _ _ _ c1 c2
  have hst : d2.state = .withdrawing := by rw [c12]; rfl
  have hk : sameSlot Context.Steadily (some d2)
      ((s.withdrawFully i cause).ctx i) := by
    rw [← h2]
    exact sameSlot_trans Context.Steadily.trans (steady_arbitrate _ i) (steady_couple_self _ i)
  obtain ⟨d, hd, e⟩ := keeps_of_steadily hk (by simp [hst]) (by simp [hst]) (by simp [hst])
  refine ⟨d, hd, ?_, ?_, ?_⟩ <;> rw [e, c12] <;> rfl

/-- R10, R11: the record of an ending, after everything it brings. -/
theorem endFully_self {i : Slot} {c : Context} (hc : s.ctx i = some c)
    (hl : c.state.leadsTo .ended = true) (outcome : Ending) :
    ∃ d, (s.endFully i outcome).ctx i = some d ∧ d.state = .ended ∧ d.outcome = some outcome ∧
      d.portClosed = some (c.atten == .blocked && outcome != .adoptFailed) ∧ d.keyer = none := by
  obtain ⟨c0, h0, e0⟩ : ∃ c0, (s.releaseKeyer i).ctx i = some c0 ∧ c0 = { c with keyer := none } := by
    unfold releaseKeyer
    rw [hc]
    dsimp only
    split
    · rename_i hk
      exact ⟨c, hc, by rw [← hk]⟩
    · rename_i k _
      exact ⟨_, ctx_modCtx_self (s.setKeyer k Keyer.free) (c := c) hc _, rfl⟩
  have hl0 : c0.state.leadsTo .ended = true := by rw [e0]; exact hl
  obtain ⟨d2, h2, c2⟩ := changeState_self _ h0 hl0 fun c =>
    { c with
      outcome := some outcome
      portClosed := some (c.atten == .blocked && outcome != .adoptFailed)
      step := none, groupEntry := false }
  have hst : d2.state = .ended := by rw [c2]; rfl
  have hk : sameSlot Context.Steadily (some d2) ((s.endFully i outcome).ctx i) := by
    rw [← h2]
    exact sameSlot_trans Context.Steadily.trans (steady_arbitrate _ i) (steady_couple_self _ i)
  obtain ⟨d, hd, e⟩ := keeps_of_steadily hk (by simp [hst]) (by simp [hst]) (by simp [hst])
  refine ⟨d, hd, ?_, ?_, ?_, ?_⟩ <;> rw [e, c2, e0] <;> rfl

end State

end Sys2Proof.Machine
end

