-- ==== Sys2Proof/Tests/Slice0.lean ====
section
/-! SUPPORT. Tests: the shape checks with an ill-formed command each, the manual's worked figures, single
steps on small states, and for each statement a state and operands that meet its hypotheses. -/

namespace Sys2Proof.Tests

set_option Elab.async false

open Sys2Proof Sys2Proof.Machine

/-! ## Small states -/

/-- Degrees 0 and 1 present, everything else at its default. -/
def cfgPayload : List Byte :=
  payload16 (((List.range 8).flatMap fun d =>
    [if d < 2 then 1 else 0, 65535, 65535, 65535, 65535, 65535, 65535]) ++ List.replicate 9 65535)

/-- The part in RUN with nothing opened. -/
def inRun : State :=
  { State.reset with part := .run, config := some (PartConfig.ofPayload cfgPayload) }

/-- A record on tone 37 and channel slot 20, from degree 0 to degree 1. -/
def aRecord (role : Role) (st : CtxState) : Context :=
  { state := st, role := role, tone := 37, channel := 20
    ingress := if role = .transit ∨ role = .tail then some 0 else none
    egress := if role = .tail then none else some 1
    priority := .low, group := none, targetOverride := none, sNom := 10, tTol := 3
    deadline := 600, partner := none, answerHold := none, elapsed := 0
    frozen := decide (st = .commissioned), atten := .blocked, keyer := none, lastPower := none
    step := none, flags := CondFlags.clear, switchReason := none
    cause := if st = .withdrawing then some .cancelled else none
    outcome := if st = .ended then some .cancelled else none
    portClosed := if st = .ended then some true else none
    drift := if st = .settled then some 0 else none
    heard := false, groupEntry := false, freshHeld := false, doneAt := none, inLoss := false
    mustBlock := false }

/-- With slot 0 holding a record. -/
def holding (c : Context) (s : State) : State := s.setRecord 0 (some c)

/-- A step in flight. -/
def aStep : StepInFlight :=
  { kind := .step, direction := some .down, size := some 8, commanded := some 62, charge := 82 }

/-- The entry of a command that carries slot 0. -/
def anEntry (kind : StepKind) : CommandEntry :=
  { slot := some 0, channel := 20, source := 8, atten := 62, kind := kind
    direction := some .down, charge := 82 }

/-- A link that has a command. -/
def carrying (st : LinkState) (kind : CommandKind) (e : CommandEntry) : Link :=
  { Link.reset with
    state := st, number := 41#8, timer := if st = .faulted then none else some 500
    retry := decide (st = .faulted)
    command := some { kind := kind, side := .lineOut, entries := [e] } }

/-- The state after a command. -/
def after (i : Instr) (s : State) : State :=
  match exec i s with
  | .next t => t
  | .fault _ => s
  | .refused _ => s

/-- The payload of an OPEN on slot 0, degrees 0 to 1, with a role, a partner and a group. -/
def openPayload (role partner group : Nat) : List Byte :=
  payload16 [0, role, 37, 20, 0, 1, 2, group, partner, 65535, 10, 3, 600]

/-! ## Shape checks -/

theorem test_shape_payload : ∀ p : List Byte, p.length = 65536 →
    (Instr.configure p).wellFormed = false := by
  intro p h
  simp [Instr.wellFormed, payloadOk, h]

theorem test_shape_code : (Instr.unknownCommand 0x10#8 []).wellFormed = false := by decide +kernel

theorem test_shape_incomplete : (Instr.writeIncomplete [0x02#8]).wellFormed = false := by decide +kernel

theorem test_shape_tones :
    (Instr.visitEnd ⟨5, [⟨3, 5, List.replicate 32 true⟩, ⟨3, 5, List.replicate 32 true⟩]⟩
      .atPosting).wellFormed = false := by decide +kernel

theorem test_shape_decisions :
    (Instr.visitEnd ⟨5, [⟨3, 5, List.replicate 31 true⟩]⟩ .atPosting).wellFormed = false := by decide +kernel

theorem test_shape_done : (Instr.linkDone 0 1#8 251#8).wellFormed = false := by decide +kernel

theorem test_shape_refuse : (Instr.linkRefuse 0 1#8 16#8).wellFormed = false := by decide +kernel

theorem test_shape_well :
    (Instr.cancel [0#8, 3#8]).wellFormed = true ∧ (Instr.unknownCommand 0x11#8 []).wellFormed = true ∧
    (Instr.writeIncomplete [0x01#8, 0x22#8, 0#8, 2#8, 0#8]).wellFormed = true ∧
    (Instr.linkDone 0 1#8 255#8).wellFormed = true ∧ (Instr.linkRefuse 0 1#8 15#8).wellFormed = true ∧
    (Instr.visitEnd ⟨5, [⟨3, 5, List.replicate 32 true⟩]⟩ .afterTest).wellFormed = true := by decide +kernel

/-! ## Transfers and reply frames -/

theorem test_transfers :
    decodeTransfer [0x01#8, 0x22#8, 0#8, 2#8, 0#8, 5#8] = .cancel [0#8, 5#8] ∧
    decodeTransfer [0x01#8, 0x60#8, 0#8, 0#8, 9#8] = .restart [] ∧
    decodeTransfer [0x01#8, 0x11#8, 0#8, 1#8, 9#8] = .unknownCommand 0x11#8 [9#8] ∧
    decodeTransfer [0x02#8, 0#8, 0#8] = .responseRead 2 ∧
    decodeTransfer [0x03#8, 0x60#8, 0#8, 0#8] = .writeIncomplete [0x03#8, 0x60#8, 0#8, 0#8] := by
  decide +kernel

theorem test_replies :
    decodeReply 3 [0x5A#8, 41#8, 2#8, 0#8, 43#8] = .linkDone 3 41#8 0#8 ∧
    decodeReply 3 [0x5A#8, 41#8, 1#8, 0#8, 40#8] = .linkAccept 3 41#8 ∧
    decodeReply 3 [0x5A#8, 41#8, 3#8, 9#8, 35#8] = .linkRefuse 3 41#8 9#8 ∧
    decodeReply 3 [0x5A#8, 41#8, 3#8, 16#8, 58#8] =
      .replyDiscarded 3 [0x5A#8, 41#8, 3#8, 16#8, 58#8] ∧
    decodeReply 3 [0x5A#8, 41#8, 2#8, 0#8, 44#8] =
      .replyDiscarded 3 [0x5A#8, 41#8, 2#8, 0#8, 44#8] := by decide +kernel

/-! ## The manual's figures -/

theorem test_tone_plan_of_R30 :
    toneHertz 0 = 20000 ∧ toneHertz 37 = 29250 ∧ toneHertz 255 = 83750 ∧
    toneAtHertz 29250 = some 37 ∧ toneAtHertz 29300 = none ∧ toneAtHertz 84000 = none ∧
    toneAtHertz 19750 = none := by decide +kernel

theorem test_word_of_R190 :
    (ToneWord.mk 37 20 .probe).symbols =
      [true, true, true, false, false, true, false, false, true, false, true, false, false,
        false, false, true, false, true, false, true, true, false, true, true] := by decide +kernel

theorem test_checks_of_section_2_1 :
    ([.probe, .ramp, .settled, .commissioned, .withdraw] : List ToneState).map
      (fun st => (ToneWord.mk 37 20 st).check) = [11, 7, 3, 14, 10] := by decide +kernel

theorem test_word_change_of_section_2_3 :
    let ramp := (ToneWord.mk 37 20 .ramp).symbols
    let probe := (ToneWord.mk 37 20 .probe).symbols
    decodeBlock 37 (probe.drop 7 ++ ramp.take 7) = some (20, .probe) ∧
    decodeBlock 37 (probe.drop 19 ++ ramp.take 19) = none ∧
    decodeBlock 38 probe = none := by decide +kernel

theorem test_planner_of_section_6_4 :
    planStep 410 500 3 10 70 = .move .down 8 ∧ brightenCharge 410 8 = 82 ∧
    planStep 493 500 3 10 62 = .settle none ∧
    planStep 700 500 3 10 50 = .move .up 10 ∧ dimCharge 700 10 = 144 ∧
    planStep 556 500 3 10 60 = .move .up 4 ∧ dimCharge 556 4 = 48 ∧
    planStep 0 500 3 10 240 = .move .down 10 ∧ brightenCharge 0 10 = 1 ∧
    planStep 300 500 3 10 4 = .move .down 4 ∧ planStep 380 500 3 10 0 = .settle (some .short) ∧
    planStep 900 500 3 10 246 = .move .up 4 ∧ planStep 900 500 3 10 250 = .settle (some .excess) := by
  decide +kernel

theorem test_withdraw_of_section_4_6 :
    withdrawSize 10 62 = 10 ∧ withdrawCharge (some 493) 10 = 101 ∧ withdrawSize 10 232 = 8 := by decide +kernel

theorem test_drift_of_R80 :
    belowWidened 410 500 3 = true ∧ belowWidened 420 500 3 = false := by decide +kernel

theorem test_windows_of_chapter_7 :
    let loaded (left : Nat) : Budget :=
      { window := some ⟨8, .boundary, 20000, some ⟨605, left⟩⟩, boundaryDue := false }
    (Window.start (PartConfig.ofPayload cfgPayload) DegreeConfig.blank .boundary 20000).allowance =
      some ⟨605, 605⟩ ∧
    (Window.start (PartConfig.ofPayload cfgPayload) DegreeConfig.blank .boundary 49).allowance = none ∧
    (loaded 605).offer (brightenCharge 300) 10 true = .grant 10 77 ∧
    (loaded 10).offer (brightenCharge 150) 5 true = .grant 3 10 ∧
    (loaded 0).offer (brightenCharge 378) 10 true = .hold ∧
    (loaded 6).offer (fun _ => 7) 1 false = .hold ∧
    (loaded 40).offer (dimCharge 300) 10 true = .grant 6 38 := by decide +kernel

theorem test_group_of_chapter_8 :
    let entries : List GroupEntry := [⟨4, 300, 120, 10⟩, ⟨9, 500, 90, 6⟩, ⟨11, 250, 8, 8⟩]
    commonSize entries = 6 ∧ groupCharge entries 6 = 155 ∧
    (Budget.mk (some ⟨8, .boundary, 20000, some ⟨605, 120⟩⟩) false).offer (groupCharge entries) 6
      true = .grant 4 100 := by decide +kernel

theorem test_excursions_of_chapter_9 :
    let at' (n : Nat) : Option Reading := some ⟨n, false⟩
    excursionTest (at' 20650) (at' 20000) 50 1 595 = (.clean, some 55) ∧
    excursionTest (at' 17000) (at' 20000) 50 1 595 = (.excursion, some (-3595)) ∧
    excursionTest (at' 17000) none 50 1 0 = (.skipped, none) ∧
    excursionTest (some ⟨316227, true⟩) none 50 1 0 = (.saturated, none) := by decide +kernel

theorem test_frame_of_R191 :
    commandFrame 41#8 ⟨.set, .lineOut, [⟨some 5, 20, 8, 94, .step, some .down, 59⟩]⟩ =
      [0xA5#8, 41#8, 1#8, 1#8, 20#8, 8#8, 94#8, 107#8] := by decide +kernel

/-! ## Single steps -/

theorem test_open_origin :
    let t := after (.openContext (openPayload 1 65535 65535)) inRun
    t.buffer = .pending .ok [] ∧
    t.ctx 0 = some { aRecord .origin .armed with keyer := some 0 } ∧
    (t.keyer 0).active = some ⟨37, 20, .probe⟩ ∧ (t.keyer 0).output = .keying ∧
    t.dither 0 = some (29250, true) ∧ t.dither 1 = none ∧
    t.events.change[(0 : Slot)] = true := by decide +kernel

theorem test_open_tail_with_group :
    after (.openContext (openPayload 4 65535 2)) inRun = inRun.refused .badField := by decide +kernel

theorem test_adopt_sends_its_read :
    let t := after (.adopt (openPayload 3 65535 65535)) inRun
    (t.link 1).state = .busy ∧ (t.link 1).number = 1#8 ∧
    (t.link 1).lastFrame = [0xA5#8, 1#8, 3#8, 1#8, 20#8, 0#8, 0#8, 23#8] := by decide +kernel

theorem test_cancel_settled :
    let c := { aRecord .origin .settled with
      atten := .tenths 62, lastPower := some 493, freshHeld := true, doneAt := some 0 }
    let t := after (.cancel [0#8, 0#8]) (holding c inRun)
    (t.ctx 0).map (·.state) = some .withdrawing ∧
    (t.link 1).requests.map (·.body) =
      [.single .withdrawStep 0 (some .up) (some 10) 101] := by decide +kernel

theorem test_done_of_a_step :
    let c := { aRecord .origin .ramping with
      step := some aStep, atten := .tenths 70, lastPower := some 410, freshHeld := true }
    let t := after (.linkDone 1 41#8 0#8) ((holding c inRun).setLink 1 (carrying .busy .set (anEntry .step)))
    (t.ctx 0).map (·.atten) = some (.tenths 62) ∧ (t.ctx 0).map (·.step) = some none ∧
    (t.guard 1).expected = 82 ∧ t.tae.queue = [5] ∧ (t.link 1).state = .idle := by decide +kernel

theorem test_refused_step_blocks :
    let c := { aRecord .origin .ramping with step := some aStep, atten := .tenths 70 }
    let t := after (.linkRefuse 1 41#8 9#8)
      ((holding c inRun).setLink 1 (carrying .busy .set (anEntry .step)))
    (t.ctx 0).map (·.state) = some .withdrawing ∧ (t.ctx 0).map (·.cause) = some (some .switchRefused) ∧
    (t.ctx 0).map (·.atten) = some (.tenths 70) ∧
    (t.link 1).command.map (·.kind) = some .block ∧ (t.link 1).lastRefusal = some 9 := by
  decide +kernel

theorem test_loss_blocks_a_transit :
    let c := { aRecord .transit .ramping with atten := .tenths 100 }
    let s := { holding c inRun with tae := { inRun.tae with visit := some 0, visits := 1, ended := true } }
    let t := after (.visitEnd ⟨0, []⟩ .atPosting) s
    (t.ctx 0).map (·.state) = some .lost ∧ (t.link 1).command.map (·.kind) = some .block := by
  decide +kernel

theorem test_timeout_faults :
    let c := { aRecord .origin .ramping with step := some aStep, atten := .tenths 70 }
    let t := after (.responseTimeout 1)
      ((holding c inRun).setLink 1 (carrying .retrying .set (anEntry .step)))
    (t.link 1).state = .faulted ∧ t.events.link[(1 : Degree)].fault = true ∧
    (t.ctx 0).map (·.flags.linkHold) = some true := by decide +kernel

/-- R179: what each part state answers an empty frame of every command, by its status alone. -/
theorem test_admission_of_R179 :
    let frames : List Instr := [.configure [], .openContext [], .adopt [], .cancel [], .free [],
      .readContext [], .readCensus [], .readDegree [], .takeEvents [], .setAttnMask [],
      .forceGuard [], .linkRetry [], .restart [], .unknownCommand 0x11#8 []]
    let status (part : PartState) : List (Option Status) := frames.map fun i =>
      match (after i { inRun with part := part }).buffer with
      | .pending st _ => some st
      | .empty => none
      | .ready _ => none
    status .restarting = List.replicate 14 (some .restarting) ∧
    status .unconfigured = [some .badField] ++ List.replicate 6 (some .notConfigured) ++
      [some .badField, some .ok] ++ List.replicate 4 (some .notConfigured) ++ [some .unknownCommand] ∧
    status .run = [some .alreadyConfigured] ++ List.replicate 7 (some .badField) ++ [some .ok] ++
      List.replicate 3 (some .badField) ++ [some .ok, some .unknownCommand] := by decide +kernel

/-- R7, R164: a guard hold that the new request shares does not clear, and no change is flagged. -/
theorem test_replaced_hold_stays :
    let c := { aRecord .origin .ramping with
      atten := .tenths 70, lastPower := some 410, freshHeld := true }
    let s := (holding c inRun).setGuard 1 { Guard.clear with forced := true }
    let t := s.postStep 0 .down 8
    let u := { t with events := Events.clear }.postStep 0 .down 6
    (t.ctx 0).map (·.flags.guardHold) = some true ∧ t.events.change[(0 : Slot)] = true ∧
    (u.ctx 0).map (·.flags.guardHold) = some true ∧ u.events.change[(0 : Slot)] = false ∧
    (u.link 1).requests.map (·.body) = [.single .step 0 (some .down) (some 6) 60] := by decide +kernel

theorem test_restart_at_once :
    let t := after (.restart []) inRun
    t.part = .run ∧ t.buffer = .pending .ok [] ∧
    (t.budget 1).window = some ⟨8, .restart, 0, none⟩ := by decide +kernel

/-! ## Witnesses: for each statement with hypotheses, states and operands that meet them -/

/-- A check of every record of a state. -/
theorem eachRecord (s : State) (P : Slot → Context → Prop) [∀ j x, Decidable (P j x)]
    (h : ∀ j, (s.ctx j).all (fun x => decide (P j x)) = true) :
    ∀ j x, s.ctx j = some x → P j x := by
  intro j x hx
  have := h j
  rw [hx] at this
  simpa using this

/-- The part right after an accepted CONFIGURE. -/
def configured : State := after (.configure cfgPayload) State.reset

/-- A loaded window of 605 µW with some of it left. -/
def loaded (left : Nat) : Budget :=
  { window := some ⟨8, .boundary, 20000, some ⟨605, left⟩⟩, boundaryDue := false }

theorem test_witness_StepRunsTheFrontCommand :
    ({ inRun with pending := [.msTick, .resetPin] } : State).pending = .msTick :: [.resetPin] ∧
    inRun.pending = [] := by decide +kernel

theorem test_witness_BandTestClasses :
    bandTest 0 1 1 = .below ∧ bandTest 316227 10000 10 = .above ∧ bandTest 1 1 1 = .within ∧
    bandTest 10000 10000 10 = .within := by decide +kernel

theorem test_witness_DownStepIsTheLargestThatFits :
    bandTest 0 10000 10 = .below ∧ planStep 0 10000 10 20 1 = .move .down 1 ∧
    planStep 0 10000 10 20 250 = .move .down 20 ∧ planStep 0 10000 10 20 0 = .settle (some .short) ∧
    bandTest 410 500 3 = .below ∧ planStep 410 500 3 10 70 = .move .down 8 ∧ 9 ≤ min 10 70 := by
  decide +kernel

theorem test_witness_UpStepIsTheLargestThatFits :
    bandTest 316227 1 1 = .above ∧ planStep 316227 1 1 20 249 = .move .up 1 ∧
    planStep 316227 1 1 20 0 = .move .up 20 ∧ planStep 316227 1 1 20 250 = .settle (some .excess) ∧
    bandTest 556 500 3 = .above ∧ planStep 556 500 3 10 60 = .move .up 4 ∧ 5 ≤ min 10 (250 - 60) := by
  decide +kernel

/-- For StepChargesAreTheFormulas and StepTableAndChargesRise. -/
theorem test_witness_StepChargesAndTable :
    stepCharge .down 0 1 = 1 ∧ stepCharge .up 0 1 = 1 ∧ stepCharge .down 316227 20 = 184980 ∧
    dimCharge 316227 20 = 116709 ∧ openCharge 316227 = 1235 ∧ stepG 1 < stepG 2 ∧ stepG 19 < stepG 20 := by
  decide +kernel

theorem test_witness_BudgetAnswersByTheRemaining :
    (Window.mk 8 .configure 0 none).allowance = none ∧
    brightenCharge 300 10 ≤ 77 ∧ 76 < brightenCharge 300 10 ∧
    (0 < brightenCharge 378 10 ∧ ∀ n < 10, 1 ≤ n → 0 < brightenCharge 378 n) ∧
    (10 < brightenCharge 150 5 ∧ brightenCharge 150 3 ≤ 10 ∧
      ∀ m < 5, 3 < m → 10 < brightenCharge 150 m) ∧
    (loaded 77).offer (brightenCharge 300) 10 false = .grant 10 77 ∧
    (loaded 76).offer (brightenCharge 300) 10 false = .hold ∧
    ((loaded 77).reserve 77).window.map (·.allowance) = some (some ⟨605, 0⟩) := by decide +kernel

theorem test_witness_ToneCheckIsTheExclusiveOr :
    toneCheck 0 0 0 = 0 ∧ toneCheck 127 7 15 ≠ toneCheck 127 6 15 ∧
    qualifies (ToneWord.mk 255 127 .withdraw).symbols = true := by decide +kernel

theorem test_witness_AKeyedWordIsReadBack :
    let only (w : ToneWord) (r : Nat) : Bool :=
      ((List.range 24).countP fun n => qualifies (rotation (rotation w.symbols r) n)) == 1
    only ⟨37, 20, .probe⟩ 0 = true ∧ only ⟨37, 20, .probe⟩ 23 = true ∧
    only ⟨255, 127, .withdraw⟩ 11 = true ∧ (List.replicate 8 true).length = 8 := by decide +kernel

theorem test_witness_TransfersDecodeAsTheyEncode :
    let i : Instr := .cancel [0#8, 5#8]
    i.wellFormed = true ∧ (codeOf i).isSome = true ∧
    encodeTransfer i = some [0x01#8, 0x22#8, 0#8, 2#8, 0#8, 5#8] ∧
    (Instr.responseRead 0).wellFormed = true ∧ encodeTransfer (.responseRead 0) = some [0x02#8] ∧
    (Instr.writeIncomplete []).wellFormed = true ∧ encodeTransfer (.writeIncomplete []) = some [] := by
  decide +kernel

theorem test_witness_FramesAreCheckedInTheirOrder :
    (codeOf (.cancel [])).isSome = true ∧ (codeOf (.unknownCommand 0x11#8 [])).isSome = true ∧
    ({ inRun with part := .restarting } : State).part = .restarting ∧
    State.reset.part = .unconfigured ∧ inRun.part = .run ∧
    ([] : List Byte).length ≠ 26 ∧ [0#8].length ≠ 0 := by decide +kernel

theorem test_witness_ConfigureClampsItsValues :
    State.reset.part = .unconfigured ∧ (payload16 (List.replicate 65 0)).length = 130 ∧
    ∀ d : Degree, fieldAt (payload16 (List.replicate 65 0)) (7 * d.val) = 0 := by decide +kernel

theorem test_witness_ConfigurePutsThePartInRun :
    let s := { State.reset with timebase := { Timebase.zero with ms := 5 } }
    s.part = .unconfigured ∧ s.Bare ∧ cfgPayload.length = 130 ∧
    ∃ d : Degree, fieldAt cfgPayload (7 * d.val) ≠ 0 := by
  refine ⟨rfl, ⟨rfl, rfl, rfl, ?_, ?_, rfl, ?_, ?_, ?_, rfl⟩, ?_, ?_⟩
  all_goals first | decide +kernel | (unfold Link.Cleared; decide +kernel)

/-! ### OPEN and ADOPT -/

/-- The payload of an OPEN by its fields. -/
def openFields (values : List Nat) : OpenFields := OpenFields.ofPayload (payload16 values)

/-- Sixteen members of group 2 on egress 1. -/
def crowded : State :=
  { inRun with
    contexts := Vector.ofFn fun i => if i.val < 16 then
      some { aRecord .origin .armed with channel := ⟨i.val, by omega⟩, group := some 2 } else none }

theorem test_witness_OpenRefusesBadFields :
    (openPayload 0 65535 65535).length = 26 ∧
    (openFields [0, 0, 37, 20, 0, 1, 2, 65535, 65535, 65535, 10, 3, 600]).slot = (0 : Slot).val ∧
    inRun.ctx 0 = none ∧
    (∀ j x, (holding (aRecord .origin .ended) inRun).ctx j = some x → x.state = .ended) ∧
    inRun.BadFields (openFields [0, 0, 37, 20, 0, 1, 2, 65535, 65535, 65535, 10, 3, 600]) ∧
    inRun.BadFields (openFields [0, 5, 37, 20, 0, 1, 2, 65535, 65535, 65535, 10, 3, 600]) ∧
    inRun.BadFields (openFields [0, 1, 256, 20, 0, 1, 2, 65535, 65535, 65535, 10, 3, 600]) ∧
    inRun.BadFields (openFields [0, 1, 37, 128, 0, 1, 2, 65535, 65535, 65535, 10, 3, 600]) ∧
    inRun.BadFields (openFields [0, 1, 37, 20, 0, 1, 3, 65535, 65535, 65535, 10, 3, 600]) ∧
    inRun.BadFields (openFields [0, 1, 37, 20, 0, 2, 2, 65535, 65535, 65535, 10, 3, 600]) ∧
    inRun.BadFields (openFields [0, 4, 37, 20, 8, 1, 2, 65535, 65535, 65535, 10, 3, 600]) ∧
    inRun.BadFields (openFields [0, 3, 37, 20, 1, 1, 2, 65535, 65535, 65535, 10, 3, 600]) ∧
    inRun.BadFields (openFields [0, 1, 37, 20, 0, 1, 2, 0, 65535, 65535, 10, 3, 600]) ∧
    inRun.BadFields (openFields [0, 1, 37, 20, 0, 1, 2, 16, 65535, 65535, 10, 3, 600]) ∧
    inRun.BadFields (openFields [0, 4, 37, 20, 0, 1, 2, 1, 65535, 65535, 10, 3, 600]) ∧
    crowded.BadFields (openFields [63, 1, 37, 20, 0, 0, 2, 2, 65535, 65535, 10, 3, 600]) ∧
    crowded.BadFields (openFields [63, 1, 37, 20, 0, 1, 2, 2, 65535, 65535, 10, 3, 600]) := by
  refine ⟨by decide +kernel, by decide +kernel, by decide +kernel, ?_, ?_⟩
  · exact eachRecord _ (fun _ x => x.state = .ended) (by decide +kernel)
  · unfold State.BadFields
    refine ⟨.inl (by decide +kernel), .inl (by decide +kernel), .inr (.inl (by decide +kernel)),
      .inr (.inr (.inl (by decide +kernel))), .inr (.inr (.inr (.inl (by decide +kernel)))),
      .inr (.inr (.inr (.inr (.inl (by decide +kernel))))),
      .inr (.inr (.inr (.inr (.inr (.inl (by decide +kernel)))))),
      .inr (.inr (.inr (.inr (.inr (.inr (.inl (by decide +kernel))))))),
      .inr (.inr (.inr (.inr (.inr (.inr (.inr (.inl (by decide +kernel)))))))),
      .inr (.inr (.inr (.inr (.inr (.inr (.inr (.inl (by decide +kernel)))))))),
      .inr (.inr (.inr (.inr (.inr (.inr (.inr (.inr (.inl (by decide +kernel))))))))),
      .inr (.inr (.inr (.inr (.inr (.inr (.inr (.inr (.inr (.inl ⟨by decide +kernel, 0,
        { aRecord .origin .armed with channel := 0, group := some 2 }, by decide +kernel⟩))))))))),
      .inr (.inr (.inr (.inr (.inr (.inr (.inr (.inr (.inr (.inr (by decide +kernel))))))))))⟩

/-- A live TAIL in slot 2 on the tone of an ANSWER that names it, in a state. -/
def withTail (st : CtxState) : State := inRun.setRecord 2 (some (aRecord .tail st))

/-- Accepted OPENs: their payload, the state they find and the record they write. -/
def openCase (n : Fin 5) : List Byte × State × Context :=
  let c (role : Role) := aRecord role .armed
  match n with
  | 0 => (openPayload 1 65535 65535, inRun, { c .origin with keyer := some 0 })
  | 1 => (openPayload 3 65535 65535, inRun, c .transit)
  | 2 => (openPayload 4 65535 65535, inRun, c .tail)
  | 3 => (openPayload 2 2 65535, withTail .ramping,
      { c .answer with keyer := some 0, partner := some 2, answerHold := some .held })
  | 4 => (openPayload 2 2 65535, withTail .settled,
      { c .answer with keyer := some 0, partner := some 2, answerHold := some .released })

theorem described (n : Fin 5) :
    (openCase n).2.1.Describes (OpenFields.ofPayload (openCase n).1) (openCase n).2.2 := by
  have h : ∀ n : Fin 5, (openCase n).2.2.group = none := by decide +kernel
  constructor
  case admitted => intro g hg; rw [h n] at hg; cases hg
  all_goals (revert n; decide +kernel)

theorem partnered (n : Fin 5) :
    (openCase n).2.1.ValidPartner (OpenFields.ofPayload (openCase n).1) (openCase n).2.2.role
      (openCase n).2.2.tone (openCase n).2.2.partner := by
  fin_cases n
  · exact ⟨by decide +kernel, by decide +kernel⟩
  · exact ⟨by decide +kernel, by decide +kernel⟩
  · exact ⟨by decide +kernel, by decide +kernel⟩
  · exact ⟨by decide +kernel, aRecord .tail .ramping, by decide +kernel⟩
  · exact ⟨by decide +kernel, aRecord .tail .settled, by decide +kernel⟩

theorem unclaimed (n : Fin 5) :
    (openCase n).2.1.PortFree (openCase n).2.2 ∧ (openCase n).2.1.ToneFree (openCase n).2.2 :=
  ⟨eachRecord _ (fun _ x => x.live = true → x.port ≠ (openCase n).2.2.port)
    (by revert n; decide +kernel),
   eachRecord _ (fun _ x => x.live = true → x.toneClaim ≠ (openCase n).2.2.toneClaim)
    (by revert n; decide +kernel)⟩

theorem test_witness_OpenWritesTheRecord (n : Fin 5) :
    let p := (openCase n).1
    let s := (openCase n).2.1
    let c := (openCase n).2.2
    (s.part = .run ∧ p.length = 26 ∧ (OpenFields.ofPayload p).slot = (0 : Slot).val ∧ s.ctx 0 = none ∧
      c.state = .armed ∧ c.atten = .blocked ∧ (c.role ≠ .answer → c.answerHold = none) ∧
      (c.head = false → c.keyer = none)) ∧
    c.Fresh ∧ (c.answerHold = some .released → s.PartnerLeveled c) ∧
    (c.answerHold = some .held → ¬ s.PartnerLeveled c) ∧ (c.head = true → c.keyer = some 0) ∧
    s.LowestFree 0 := by
  intro p s c
  refine ⟨by revert n; decide +kernel, by revert n; unfold Context.Fresh; decide +kernel, ?_, ?_,
    by revert n; decide +kernel, by revert n; decide +kernel, fun j hj => absurd hj (Fin.not_lt_zero j)⟩
  · intro h
    fin_cases n
    all_goals first
      | exact absurd h (by decide +kernel)
      | exact ⟨2, aRecord .tail .settled, by decide +kernel⟩
  · rintro h ⟨q, x, hq, hx, hs⟩
    fin_cases n
    all_goals first
      | exact absurd h (by decide +kernel)
      | exact absurd hs (by
          have : q = 2 := by injection hq with hq; exact hq.symm
          subst this
          have : x = aRecord .tail .ramping := by
            have e : (withTail .ramping).ctx 2 = some (aRecord .tail .ramping) := by decide +kernel
            exact Option.some.inj (hx.symm.trans e)
          subst this
          decide +kernel)

theorem test_witness_OpenRefusesClaimsThatAreHeld :
    let p := openPayload 1 65535 65535
    let q := openPayload 2 65535 65535
    let c := aRecord .origin .armed
    let d := aRecord .answer .armed
    let onPort := inRun.setRecord 1 (some { c with tone := 38 })
    let onTone := inRun.setRecord 1 (some { c with channel := 21 })
    let bound := { inRun with keyers := Vector.replicate 16 { Keyer.free with bound := some 1 } }
    63 < (openFields [64, 1, 37, 20, 0, 1, 2, 65535, 65535, 65535, 10, 3, 600]).slot ∧
    ((holding c inRun).ctx 0 = some c ∧ c.live = true) ∧
    (inRun.ctx 0 = none ∧ (OpenFields.ofPayload q).role = d.role.code ∧
      ∀ x, ¬ inRun.ValidPartner (OpenFields.ofPayload q) d.role d.tone x) ∧
    (onPort.ctx 0 = none ∧ onPort.Describes (OpenFields.ofPayload p) c ∧
      onPort.ValidPartner (OpenFields.ofPayload p) c.role c.tone none ∧ ¬ onPort.PortFree c) ∧
    (onTone.ctx 0 = none ∧ onTone.Describes (OpenFields.ofPayload p) c ∧ onTone.PortFree c ∧
      ¬ onTone.ToneFree c) ∧
    bound.ctx 0 = none ∧ bound.Describes (OpenFields.ofPayload p) c ∧
      bound.PortFree c ∧ bound.ToneFree c ∧ c.head = true ∧ ∀ k, (bound.keyer k).bound ≠ none := by
  intro p q c d onPort onTone bound
  have admits (s : State) (g : Nat) (hg : c.group = some g) : 1 ≤ g ∧ g ≤ 15 ∧ c.role ≠ .tail ∧
      (∀ j x, s.ctx j = some x → x.live = true → x.group = some g → x.egress = c.egress) ∧
      (allSlots.filter fun j => (s.ctx j).any fun x => x.live && x.group == some g).length < 16 := by
    cases hg
  refine ⟨by decide +kernel, by decide +kernel, ⟨by decide +kernel, by decide +kernel, ?_⟩,
    ⟨by decide +kernel, ?_, by unfold State.ValidPartner; decide +kernel, ?_⟩,
    ⟨by decide +kernel, ?_, ?_, ?_⟩, by decide +kernel, ?_, ?_, ?_, rfl, by decide +kernel⟩
  · rintro (_ | x) h
    · exact h.2 rfl
    · have : (65535 : Nat) = x.val := h.1
      omega
  · constructor
    case admitted => exact admits onPort
    all_goals decide +kernel
  · intro h
    exact h 1 { c with tone := 38 } (by decide +kernel) (by decide +kernel) (by decide +kernel)
  · constructor
    case admitted => exact admits onTone
    all_goals decide +kernel
  · exact eachRecord _ (fun _ x => x.live = true → x.port ≠ c.port) (by decide +kernel)
  · intro h
    exact h 1 { c with channel := 21 } (by decide +kernel) (by decide +kernel) (by decide +kernel)
  · constructor
    case admitted => exact admits bound
    all_goals decide +kernel
  · exact eachRecord _ (fun _ x => x.live = true → x.port ≠ c.port) (by decide +kernel)
  · exact eachRecord _ (fun _ x => x.live = true → x.toneClaim ≠ c.toneClaim) (by decide +kernel)

theorem test_witness_OpenDiscardsTheEndedRecord :
    let c := aRecord .origin .ended
    let s := holding c inRun
    let u := s.taken.discardRecord 0
    s.ctx 0 = some c ∧ c.state = .ended ∧ s.part = .run ∧
    (State.openRecord (openPayload 1 65535 65535) u).toOption.isSome = true ∧
    (State.adoptRecord (openPayload 1 65535 65535) u).toOption.isSome = true ∧
    (State.openRecord (openPayload 2 65535 65535) u).toOption.isSome = false ∧
    (State.adoptRecord (openPayload 2 65535 65535) u).toOption.isSome = false := by decide +kernel

/-- A link of degree 1 in FAULTED, which holds the command of a slot freed since. -/
def faulted : State :=
  inRun.setLink 1 (carrying .faulted .set { anEntry .step with slot := none })

theorem test_witness_AdoptPostsItsRead :
    let p := openPayload 1 65535 65535
    let c := { aRecord .origin .adopting with atten := .unknown }
    ∀ s ∈ [inRun, faulted], (s.part = .run ∧ s.arbiterWaits = false ∧ (∀ d, s.decisionDue d = false) ∧
      p.length = 26 ∧ (OpenFields.ofPayload p).slot = (0 : Slot).val ∧ s.ctx 0 = none ∧
      (s.link c.link).requests = []) ∧ s.Describes (OpenFields.ofPayload p) c ∧
      s.ValidPartner (OpenFields.ofPayload p) c.role c.tone none ∧ s.PortFree c ∧ s.ToneFree c ∧
      c.Fresh := by
  intro p c s hs
  have hf : c.Fresh := by unfold Context.Fresh; decide +kernel
  have admits (s : State) (g : Nat) (hg : c.group = some g) : 1 ≤ g ∧ g ≤ 15 ∧ c.role ≠ .tail ∧
      (∀ j x, s.ctx j = some x → x.live = true → x.group = some g → x.egress = c.egress) ∧
      (allSlots.filter fun j => (s.ctx j).any fun x => x.live && x.group == some g).length < 16 := by
    cases hg
  have hp (s : State) (h : s.contexts = inRun.contexts) : s.PortFree c ∧ s.ToneFree c := by
    have (j : Slot) : s.ctx j = none := by
      unfold State.ctx
      rw [h]
      revert j
      decide +kernel
    constructor <;> (intro j x hx; rw [this j] at hx; cases hx)
  simp only [List.mem_cons, List.not_mem_nil, or_false] at hs
  rcases hs with rfl | rfl
  · refine ⟨by decide +kernel, ?_, by unfold State.ValidPartner; decide +kernel, (hp _ rfl).1,
      (hp _ rfl).2, hf⟩
    constructor
    case admitted => exact admits _
    all_goals decide +kernel
  · refine ⟨by decide +kernel, ?_, by unfold State.ValidPartner; decide +kernel, (hp _ rfl).1,
      (hp _ rfl).2, hf⟩
    constructor
    case admitted => exact admits _
    all_goals decide +kernel

/-! ### Commands on one record, one tap, one degree -/

/-- For CANCEL, FREE and READ_CONTEXT. -/
theorem test_witness_commands_on_a_slot (st : CtxState) :
    let c := aRecord .origin st
    let s := holding c inRun
    s.part = .run ∧ (payload16 [0]).length = 2 ∧ fieldAt (payload16 [0]) 0 = (0 : Slot).val ∧
    s.ctx 0 = some c ∧ c.state = st ∧ s.ctx 1 = none ∧ fieldAt (payload16 [1]) 0 = (1 : Slot).val ∧
    63 < fieldAt (payload16 [64]) 0 ∧ (c.keyer = none ∧ ∀ d, s.decisionDue d = false) ∧
    (st = .commissioned → c.frozen = true ∧ c.group = none) := by
  cases st <;> decide +kernel

/-- For CANCEL: a record that names a keyer no other names. -/
theorem test_witness_CancelFrees :
    let c := { aRecord .origin .commissioned with keyer := some 3 }
    let s := (holding c inRun).setKeyer 3
      ⟨some 0, .linger, some ⟨37, 20, .commissioned⟩, none, some 5, 60⟩
    c.keyer = some 3 ∧ (∀ j x, s.ctx j = some x → j ≠ 0 → x.keyer ≠ some 3) ∧
    (after (.cancel [0#8, 0#8]) s).keyer 3 = Keyer.free := by
  refine ⟨rfl, ?_, by decide +kernel⟩
  exact eachRecord _ (fun j x => j ≠ 0 → x.keyer ≠ some 3) (by decide +kernel)

theorem test_witness_FreeReturnsTheSlotToIdle :
    let c := { aRecord .origin .commissioned with partner := some 1 }
    let x := { aRecord .tail .commissioned with partner := some 0 }
    let s := (holding c inRun).setRecord 1 (some x)
    s.ctx 0 = some c ∧ s.ctx 1 = some x ∧ c.partner = some 1 ∧ x.partner = some 0 := by decide +kernel

theorem test_witness_ReadCensusReturnsTheList :
    (payload16 [32, 0, 0]).length = 6 ∧ 31 < fieldAt (payload16 [32, 0, 0]) 0 ∧
    255 < fieldAt (payload16 [7, 256, 0]) 1 ∧ fieldAt (payload16 [31, 0, 0]) 0 = (31 : Tap).val ∧
    inRun.present (tapDegree 31) = false ∧ fieldAt (payload16 [7, 255, 33]) 0 = (7 : Tap).val ∧
    inRun.present (tapDegree 7) = true ∧ fieldAt (payload16 [7, 255, 33]) 1 ≤ 255 := by decide +kernel

theorem test_witness_ReadDegreeReturnsTheDegree :
    inRun.part ≠ .restarting ∧ State.reset.part ≠ .restarting ∧ 7 < fieldAt (payload16 [8]) 0 ∧
    fieldAt (payload16 [7]) 0 = (7 : Degree).val ∧ inRun.present 7 = false ∧ inRun.present 1 = true := by
  decide +kernel

theorem test_witness_events :
    inRun.part ≠ .restarting ∧ inRun.part = .run ∧ (payload16 [0, 1, 2]).length = 6 := by decide +kernel

theorem test_witness_TheResponseBufferIsBuiltAndRead :
    ({ inRun with buffer := .pending .busy [] } : State).buffer = .pending .busy [] ∧
    inRun.buffer = .empty ∧ ({ inRun with buffer := .ready [1#8, 1#8, 0#8, 0#8] } : State).buffer =
      .ready [1#8, 1#8, 0#8, 0#8] ∧ 3 < [1#8, 1#8, 0#8, 0#8].length ∧ [1#8, 1#8, 0#8, 0#8].length ≤ 4 := by
  decide +kernel

theorem test_witness_ForceGuardSetsOrClearsForced :
    let s := inRun.setGuard 1 { Guard.clear with forced := true }
    inRun.part = .run ∧ (payload16 [1, 1]).length = 4 ∧
    (¬ ∃ d : Degree, fieldAt (payload16 [2, 1]) 0 = d.val ∧ inRun.present d = true) ∧
    ¬ (fieldAt (payload16 [1, 3]) 1 = 1 ∨ fieldAt (payload16 [1, 3]) 1 = 2) ∧
    (fieldAt (payload16 [1, 1]) 0 = (1 : Degree).val ∧ fieldAt (payload16 [1, 1]) 1 = 1 ∧
      fieldAt (payload16 [1, 2]) 1 = 2) ∧
    (∀ d, inRun.decisionDue d = false) ∧ inRun.guarded 1 = false ∧
    s.part = .run ∧ s.present 1 = true ∧ (∀ d, s.decisionDue d = false) ∧ s.guarded 1 = true ∧
    ((s.guard 1).auto || false) = false := by decide +kernel

theorem test_witness_LinkRetrySendsTheHeldCommand :
    let c := { aRecord .origin .ramping with step := some aStep }
    let s := holding c inRun
    (¬ ∃ d : Degree, fieldAt (payload16 [2]) 0 = d.val ∧ inRun.present d = true) ∧
    (inRun.link 1).state = .idle ∧
    ((inRun.setLink 1 (carrying .busy .set (anEntry .step))).link 1).state = .busy ∧
    ((inRun.setLink 1 (carrying .retrying .set (anEntry .step))).link 1).state = .retrying ∧
    ((s.setLink 1 (carrying .faulted .set (anEntry .step))).link 1).state = .faulted ∧
    (s.setLink 1 (carrying .faulted .set (anEntry .step))).present 1 = true ∧
    s.ctx 0 = some c ∧ c.link = 1 := by decide +kernel

/-- For RESTART and RESTART_COMPLETE. -/
theorem test_witness_Restart :
    let busy := inRun.setLink 1 (carrying .busy .set (anEntry .step))
    let quiet := { inRun with part := .restarting }
    (∀ d, (inRun.link d).command = none) ∧ (∀ d, (inRun.link d).state ≠ .faulted) ∧
    (∀ d, 1 ≤ (inRun.degreeCfg d).floor) ∧
    (busy.part = .run ∧ (busy.link 1).command ≠ none ∧ ∀ d, (busy.link d).state ≠ .faulted) ∧
    ((faulted.link 1).state = .faulted ∧ (faulted.link 1).command ≠ none) ∧
    quiet.part = .restarting ∧ (∀ d, (quiet.link d).command = none) ∧
    ∀ d, 1 ≤ (quiet.degreeCfg d).floor := by decide +kernel

/-! ### Ticks and what falls at them -/

theorem test_witness_SecondTickCountsElapsedAndLinger :
    let s := { inRun with timebase := ⟨1000, false, true⟩ }
    inRun.timebase.secondDue = false ∧ s.timebase.secondDue = true ∧ s.part = .run ∧
    ({ State.reset with timebase := ⟨1000, false, true⟩ } : State).part ≠ .run ∧
    (aRecord .origin .ramping).frozen = false ∧ (aRecord .origin .commissioned).frozen = true := by
  decide +kernel

theorem test_witness_FrameTickCountsTheWindows :
    let at' (frames : Nat) : Budget :=
      { window := some ⟨frames, .boundary, 0, none⟩, boundaryDue := false }
    let s := { inRun with timebase := ⟨256, true, false⟩, budgets := Vector.ofFn fun d => at' d.val }
    inRun.timebase.frameDue = false ∧ s.timebase.frameDue = true ∧ s.part = .run ∧
    (s.budget 2).window = some ⟨2, .boundary, 0, none⟩ ∧
    (s.budget 1).window = some ⟨1, .boundary, 0, none⟩ ∧ (inRun.budget 0).window = none := by
  decide +kernel

theorem test_witness_DeadlineExpiryActsByTheState (st : CtxState) :
    let c := { aRecord .origin st with elapsed := 600 }
    let s := holding c inRun
    s.part = .run ∧ s.ctx 0 = some c ∧ c.state = st ∧ c.elapsed = c.deadline ∧
    (st ≠ .commissioned → c.frozen = false) ∧ (aRecord .origin st).elapsed ≠ (aRecord .origin st).deadline ∧
    State.reset.part ≠ .run ∧ s.ctx 1 = none := by
  cases st <;> decide +kernel

theorem test_witness_LingerExpiryFreesTheKeyer :
    let c := { aRecord .origin .commissioned with keyer := some 5 }
    let k := { Keyer.free with
      bound := some 0, output := .linger, active := some ⟨37, 20, .commissioned⟩, position := some 0 }
    let s := (holding c inRun).setKeyer 5 k
    s.part = .run ∧ (s.keyer 5).output = .linger ∧ (s.keyer 5).lingerCount = 0 ∧
    (s.keyer 5).bound = some 0 ∧ s.ctx 0 = some c ∧ c.keyer = some 5 ∧ c.flags.keyerReleased = false ∧
    (inRun.keyer 5).output ≠ .linger := by decide +kernel

theorem test_witness_KeyersAdvanceAndTakeStagedWords :
    let k (n : Nat) (staged : Option ToneWord) : Keyer :=
      ⟨some 0, .keying, some ⟨37, 20, .probe⟩, staged, some n, 0⟩
    let s (n : Nat) (staged : Option ToneWord) : State := inRun.setKeyer 5 (k n staged)
    (inRun.keyer 5).output = .silent ∧ (inRun.keyer 5).position = none ∧
    ((s 22 none).keyer 5).position = some 22 ∧ ((s 23 none).keyer 5).position = some 23 ∧
    ((s 23 none).keyer 5).staged = none ∧ ((s 23 none).keyer 5).output ≠ .silent ∧
    ((s 23 (some ⟨37, 20, .ramp⟩)).keyer 5).staged = some ⟨37, 20, .ramp⟩ := by decide +kernel

theorem test_witness_WindowBoundaryStartsAWindow :
    let due : Budget := { window := some ⟨1, .boundary, 0, none⟩, boundaryDue := true }
    let s := (inRun.setLink 1 (carrying .busy .set (anEntry .step))).setBudget 1 due
    (inRun.budget 1).boundaryDue = false ∧ s.part = .run ∧ (s.budget 1).boundaryDue = true ∧
    (∀ d, s.decisionDue d = false) ∧ (s.link 1).state ≠ .idle := by decide +kernel

/-! ### Visits -/

/-- A present entry of tone 37 at 400 µW. -/
def entry (absence : Nat) : CensusEntry :=
  ⟨37, 400, 400, some (20, .probe), true, 4, absence, 0, 2⟩

/-- The end of a visit of the LINE_OUT tap of degree 1, with tone 37 on its census. -/
def visiting (absence : Nat) (power : Option Reading) (g : Guard) : State :=
  { inRun with
    tae := { Tae.stopped with
      taps := Vector.ofFn fun v => if v = lineOut 1 then ⟨power, none, [entry absence]⟩ else .empty
      visit := some (lineOut 1), visits := 1, ended := true }
    guards := Vector.ofFn fun d => if d = 1 then g else .clear }

/-- A visit that hears one tone. -/
def hearing (tone : Tone) (power : Nat) : VisitReading :=
  ⟨20000, [⟨tone, power, List.replicate 8 true ++ (ToneWord.mk tone 20 .probe).symbols⟩]⟩

/-- For the statements on VISIT_END. -/
theorem test_witness_VisitEnd :
    let s := visiting 0 none .clear
    inRun.tae.ended = false ∧ s.part = .run ∧ s.tae.ended = true ∧ s.tae.visit = some (lineOut 1) ∧
    (∃ d, s.present d = true) ∧ s.tae.queue = [] ∧ 3 ≤ ({ s.tae with priorityRun := 3 } : Tae).priorityRun ∧
    lineOut 1 ≠ lineOut 0 := by decide +kernel

theorem test_witness_VisitEndUpdatesTheCensus :
    let old (absence : Nat) := ((visiting absence none .clear).tap (lineOut 1)).census
    (old 7 = [entry 7] ∧ old 6 = [entry 6] ∧ (old 7).length + (hearing 38 300).tones.length ≤ 128) ∧
    toneReport 2 (hearing 38 300) 37 = none ∧
    toneReport 2 (hearing 37 300) 37 = some ⟨300, some (20, .probe)⟩ ∧
    toneReport 2 (hearing 37 1) 37 = none ∧
    toneReport 2 ⟨0, [⟨37, 300, List.replicate 32 true⟩]⟩ 37 = some ⟨300, none⟩ ∧
    toneReport 2 (hearing 38 300) 38 = some ⟨300, some (20, .probe)⟩ ∧
    (∀ e ∈ old 7, e.tone ≠ 38) ∧
    (∀ e ∈ old 7, e.InRange) := by
  simp only [CensusEntry.InRange]
  decide +kernel

theorem test_witness_VisitEndTestsForAnExcursion :
    let g (auto : Bool) (clean : Nat) : Guard := ⟨auto, false, clean, 0, .none, none⟩
    let last (n total : Nat) (x : Guard) : LastTest × Bool × Nat :=
      let t := after (.visitEnd ⟨total, []⟩ .atPosting) (visiting 0 (some ⟨n, false⟩) x)
      ((t.guard 1).lastTest, (t.guard 1).auto, (t.guard 1).clean)
    last 20000 20595 (g false 0) = (.clean, false, 0) ∧ last 20000 17000 (g false 0) = (.excursion, true, 0) ∧
    last 49 20000 (g false 0) = (.skipped, false, 0) ∧ last 49 316227 (g false 0) = (.saturated, true, 0) ∧
    last 20000 20000 (g true 2) = (.clean, true, 3) ∧ last 20000 20000 (g true 3) = (.clean, false, 0) := by
  decide +kernel

theorem test_witness_TheNextVisitIsChosen :
    let s := { inRun with tae := { Tae.stopped with ended := true } }
    inRun.tae.ended = false ∧ s.part = .run ∧ s.tae.ended = true ∧ s.tae.visit = none ∧
    s.tae.scanPointer = none ∧ s.present 0 = true ∧ (∀ e : Degree, e < 0 → s.present e = false) ∧
    let next (run : Nat) : Option Tap × List Tap × Nat :=
      let v := visiting 0 none .clear
      let t := after (.visitEnd ⟨0, []⟩ .atPosting)
        { v with tae := { v.tae with queue := [3], priorityRun := run } }
      (t.tae.visit, t.tae.queue, t.tae.priorityRun)
    next 2 = (some 3, [], 3) ∧ next 3 = (some 0, [3], 0) := by decide +kernel

/-! ### Links -/

theorem test_witness_RepliesThatDoNotMatchAreDiscarded :
    let s := inRun.setLink 1 (carrying .busy .set (anEntry .step))
    (inRun.link 1).command = none ∧ (s.link 1).number ≠ 42#8 ∧ (s.link 1).command ≠ none ∧
    (s.link 1).number = 41#8 := by decide +kernel

theorem test_witness_LinkDoneCompletesTheCommand :
    let cmd : LinkCommand := ⟨.set, .lineOut, [anEntry .step]⟩
    let c := { aRecord .origin .ramping with step := some aStep, atten := .tenths 70 }
    let e := aRecord .origin .ended
    let s (c : Context) := (holding c inRun).setLink 1 (carrying .busy .set (anEntry .step))
    ((s c).part = .run ∧ ((s c).link 1).command = some cmd ∧ ((s c).link 1).state ≠ .idle ∧
      (cmd.entries.filterMap (·.slot)).Nodup) ∧
    (doneValue .set 0#8 = some .blocked ∧ doneValue .set 1#8 = none) ∧
    (doneValue .read 250#8 = some (.tenths 250) ∧ doneValue .read 251#8 = none ∧
      doneValue .read 255#8 = some .blocked) ∧
    ((s c).ctx 0 = some c ∧ c.step.isSome = true ∧ c.state ≠ .armed) ∧
    ((s e).ctx 0 = some e ∧ e.step = none ∧ e.state = .ended) ∧
    ((carrying .faulted .set (anEntry .step)).retry = true) ∧
    (({ s c with part := .restarting } : State).part = .restarting ∧
      (({ s c with part := .restarting } : State).link 1).command = some cmd) := by decide +kernel

theorem test_witness_EntriesChangeTheExpectedPower :
    let c (role : Role) := { aRecord role .ramping with lastPower := some 410 }
    let s (role : Role) := holding (c role) inRun
    (s .origin).entryChange (anEntry .step) = 82 ∧ (s .tail).entryChange (anEntry .step) = 0 ∧
    (s .origin).entryChange { anEntry .step with direction := some .up } = -82 ∧
    (s .origin).entryChange (anEntry .openPort) = 82 ∧ (s .origin).entryChange (anEntry .groupStep) = 82 ∧
    (s .origin).entryChange (anEntry .withdrawStep) = -82 ∧ (s .origin).entryChange (anEntry .block) = -410 ∧
    (s .origin).entryChange (anEntry .read) = 0 ∧ inRun.entryChange (anEntry .step) = 0 ∧
    inRun.entryChange { anEntry .step with slot := none } = 0 := by decide +kernel

theorem test_witness_LinkRefuseCompletesTheCommand :
    let cmd (kind : CommandKind) (k : StepKind) : LinkCommand := ⟨kind, .lineOut, [anEntry k]⟩
    let c (k : StepKind) := { aRecord .origin .withdrawing with step := some { aStep with kind := k } }
    let s (kind : CommandKind) (k : StepKind) :=
      (holding (c k) inRun).setLink 1 (carrying .retrying kind (anEntry k))
    ((s .set .withdrawStep).link 1).command = some (cmd .set .withdrawStep) ∧
    ((s .set .withdrawStep).link 1).state ≠ .idle ∧ (15#8).toNat ≤ 15 ∧
    ((cmd .set .withdrawStep).entries.filterMap (·.slot)).Nodup ∧
    (s .set .withdrawStep).ctx 0 = some (c .withdrawStep) ∧
    (c .withdrawStep).step.isSome = true ∧ (c .withdrawStep).state ≠ .armed ∧
    ({ s .set .withdrawStep with part := .restarting } : State).part = .restarting ∧
    ((s .block .block).link 1).command = some (cmd .block .block) ∧
    (s .block .block).ctx 0 = some (c .block) := by decide +kernel

theorem test_witness_ResponseTimeoutResendsOrFaults :
    let c := { aRecord .origin .ramping with step := some aStep }
    let s (st : LinkState) (part : PartState) : State :=
      { (holding c inRun).setLink 1 (carrying st .set (anEntry .step)) with part := part }
    (inRun.link 1).timer ≠ some (inRun.degreeCfg 1).tResp ∧
    ((s .busy .run).link 1).timer = some ((s .busy .run).degreeCfg 1).tResp ∧
    ((s .busy .run).link 1).state = .busy ∧ ((s .retrying .run).link 1).state = .retrying ∧
    ((s .retrying .run).ctx 0 = some c ∧ c.link = 1 ∧ c.step.isSome = true) ∧
    (s .busy .restarting).part = .restarting ∧
    ((s .busy .restarting).link 1).command = some ⟨.set, .lineOut, [anEntry .step]⟩ := by decide +kernel

/-! ### Leveling -/

/-- A context in RAMPING that holds a fresh measurement. -/
def poisedAt (power level : Nat) (group : Option Nat) : Context :=
  { aRecord .origin .ramping with
    lastPower := some power, freshHeld := true, atten := .tenths level, group := group }

theorem test_witness_PostingTestSettlesOrPostsAStep :
    let c := poisedAt 410 70 none
    let s := holding c inRun
    let plan (p a : Nat) := planStep p (c.target s) c.tTol c.sNom a
    (s.ctx 0 = some c ∧ c.state = .ramping ∧ c.group = none ∧ c.step = none ∧ c.freshHeld = true ∧
      c.flags.collision = false ∧ c.heard = false ∧ c.flags.upstreamUnstable = false) ∧
    plan 410 70 = .move .down 8 ∧ plan 493 62 = .settle none ∧ plan 380 0 = .settle (some .short) ∧
    plan 900 250 = .settle (some .excess) := by decide +kernel

theorem test_witness_GroupRequestsAreFormedFromTheirEntries :
    let c := poisedAt 410 70 (some 3)
    let s := holding c inRun
    let t := s.evaluateGroup 1 3
    (s.candidateEntries 3 = [⟨0, 410, 70, 8⟩] ∧ (∀ e ∈ s.candidateEntries 3, e.size ≤ 20)) ∧
    ((s.link 1).requestBy (.group 3) = none ∧ s.ctx 0 = some c ∧ c.poised = true) ∧
    ((t.link 1).requestBy (.group 3)).isSome = true ∧ inRun.candidateEntries 3 = [] ∧
    ({ c with freshHeld := false } : Context).poised = false := by decide +kernel

theorem test_witness_UrgentBlockIsGrantedFirst (lost : Bool) :
    let c := aRecord .origin (if lost then .lost else .withdrawing)
    let block (i : Slot) (level : Level) : Request :=
      ⟨.single .block i none none 0, level, .lineOut, false, false, false⟩
    let l := { Link.reset with requests := [block 3 .high, block 0 .urgent, block 2 .urgent] }
    let s := (holding c inRun).setLink 1 l
    s.part = .run ∧ s.ctx 0 = some c ∧ (c.state = .lost ∨ c.state = .withdrawing) ∧ c.link = 1 ∧
    (s.link 1).state = .idle ∧ block 0 .urgent ∈ (s.link 1).requests ∧
    ∀ q ∈ (s.link 1).requests, q = block 0 .urgent ∨
      (0 : Slot) ∉ q.holders ∧ (q.level ≠ .urgent ∨ (0 : Slot).val < q.position) := by
  cases lost <;> decide +kernel

/-! ### Invariants of every step -/

/-- A part with a partnered TAIL and ANSWER, a loaded budget, a command on a link, a census and a queue. -/
def atWork : State :=
  let head := { aRecord .answer .ramping with
    partner := some 2, answerHold := some .released, step := some aStep, atten := .tenths 70
    keyer := some 3 }
  let tail := { aRecord .tail .settled with partner := some 0, atten := .tenths 100 }
  { (((visiting 3 (some ⟨20000, false⟩) .clear).setRecord 0 (some head)).setRecord 2
      (some tail)).setLink 1 (carrying .busy .set (anEntry .step)) with
    budgets := Vector.ofFn fun d => if d = 1 then loaded 520 else Budget.noWindow
    keyers := Vector.ofFn fun k => if k = 3 then
      ⟨some 0, .keying, some ⟨37, 20, .ramp⟩, none, some 5, 0⟩ else Keyer.free
    pending := [.linkDone 1 41#8 0#8] }

theorem test_witness_steps : ∃ t, step atWork = .next t ∧ (t.ctx 0).map (·.atten) = some (.tenths 62) :=
  ⟨after (.linkDone 1 41#8 0#8) { atWork with pending := [] }, rfl, by decide +kernel⟩

theorem test_witness_TheScannerKeepsItsLists : atWork.QueueInv ∧ atWork.CensusInv := by
  unfold State.QueueInv State.CensusInv CensusEntry.InRange
  decide +kernel

theorem test_witness_BudgetsKeepTheirRanges : atWork.BudgetInv := by
  have window (d : Degree) (w : Window) (h : (atWork.budget d).window = some w) :
      d = 1 ∧ w = ⟨8, .boundary, 20000, some ⟨605, 520⟩⟩ := by
    have e : ∀ d : Degree, (atWork.budget d).window =
        if d = 1 then some ⟨8, .boundary, 20000, some ⟨605, 520⟩⟩ else none := by decide +kernel
    rw [e d] at h
    split at h
    · exact ⟨by assumption, (Option.some.inj h).symm⟩
    · cases h
  constructor
  · decide +kernel
  · intro cfg h
    have : cfg = PartConfig.ofPayload cfgPayload := (Option.some.inj h).symm
    subst this
    decide +kernel
  · intro h
    exact absurd h (by decide +kernel)
  · intro d w h
    obtain ⟨-, rfl⟩ := window d w h
    decide +kernel
  · intro d w a h ha
    obtain ⟨-, rfl⟩ := window d w h
    cases ha
    decide +kernel

theorem test_witness_LinksKeepTheirShape : atWork.LinkInv :=
  ⟨fun d => ⟨by revert d; decide +kernel, by revert d; decide +kernel, by revert d; decide +kernel,
    by revert d; decide +kernel⟩, fun h => absurd h (by decide +kernel)⟩

theorem test_witness_ClaimsAndBindingsStand :
    atWork.ClaimsInv ∧ atWork.PartnersInv ∧ atWork.KeyersInv := by
  refine ⟨?_, ?_, fun i c k hc hk => ?_, fun k i hb => ?_⟩
  · intro i j c x hc hx _ _ hne
    exact eachRecord atWork (fun i c => ∀ j, i ≠ j → (atWork.ctx j).all
      (fun x => decide (c.port ≠ x.port ∧ c.toneClaim ≠ x.toneClaim)) = true)
      (by decide +kernel) i c hc j hne |> fun h => by rw [hx] at h; simpa using h
  · intro i c p hc hp
    have h := eachRecord atWork (fun i c => c.partner.all (fun p => (atWork.ctx p).any
      (fun x => decide (x.partner = some i ∧ x.tone = c.tone ∧ x.isTail = !c.isTail))) = true)
      (by decide +kernel) i c hc
    rw [hp] at h
    obtain ⟨x, hx, hd⟩ := Option.any_eq_true .. |>.mp h
    exact ⟨x, hx, by simpa using hd⟩
  · have h := eachRecord atWork (fun i c => c.keyer.all (fun k =>
      decide ((atWork.keyer k).bound = some i ∧ c.live = true)) = true) (by decide +kernel) i c hc
    rw [hk] at h
    simpa using h
  · have h : ∀ k, (atWork.keyer k).bound.all (fun i => (atWork.ctx i).any
        (fun c => decide (c.keyer = some k))) = true := by decide +kernel
    have := h k
    rw [hb] at this
    obtain ⟨c, hc, hk⟩ := Option.any_eq_true .. |>.mp this
    exact ⟨c, hc, by simpa using hk⟩

theorem test_witness_FieldsAndTheBarePartStand : atWork.FieldsInv ∧ atWork.BareInv := by
  refine ⟨fun i c h => ⟨?_, ?_, ?_, ?_⟩, fun h => absurd h (by decide +kernel)⟩
  · exact eachRecord atWork (fun _ c => c.drift.isSome ↔ c.state = .settled) (by decide +kernel) i c h
  · exact eachRecord atWork (fun _ c => c.cause.isSome ↔ c.state = .withdrawing) (by decide +kernel) i c h
  · exact eachRecord atWork (fun _ c => c.outcome.isSome ↔ c.state = .ended) (by decide +kernel) i c h
  · exact eachRecord atWork (fun _ c => c.portClosed.isSome ↔ c.state = .ended) (by decide +kernel) i c h

/-- For RecordsEvolve too. -/
theorem test_witness_ChangesAreFlagged :
    let c : Instr := .deadlineExpiry 0
    let s := holding { aRecord .origin .armed with elapsed := 600 } inRun
    exec c s = .next (after c s) ∧ s.part ≠ .restarting ∧ c ≠ .resetPin ∧ (∀ p, c ≠ .restart p) ∧
    (∀ p, c ≠ .openContext p) ∧ (∀ p, c ≠ .adopt p) ∧ (∀ p, c ≠ .free p) ∧ c ≠ .restartComplete ∧
    c ≠ .secondTick ∧ ((after c s).ctx 0).map Context.shown ≠ (s.ctx 0).map Context.shown :=
  ⟨rfl, by decide, nofun, nofun, nofun, nofun, nofun, nofun, nofun, by decide +kernel⟩

theorem test_witness_TheConfigurationStays :
    let quiet := { inRun with part := .restarting }
    exec .msTick inRun = .next (after .msTick inRun) ∧ inRun.part ≠ .unconfigured ∧
    exec (.configure cfgPayload) State.reset = .next configured ∧ State.reset.part = .unconfigured ∧
    configured.part = .run ∧ exec .restartComplete quiet = .next (after .restartComplete quiet) ∧
    quiet.part = .restarting ∧ (after .restartComplete quiet).part = .run :=
  ⟨rfl, by decide, rfl, rfl, by decide +kernel, rfl, rfl, by decide +kernel⟩

end Sys2Proof.Tests
end

section
/-! SUPPORT. The checks of a new record: how a command frame is refused (R181, R182), what the readers of
R192 accept, the conditions of R14, and the table with a slot's ENDED record discarded (R13, R17). -/

namespace Sys2Proof.Machine

/-! ## Fields of a payload (R192) -/

theorem index?_eq_some_iff {n v : Nat} {i : Fin n} : index? n v = some i ↔ v = i.val := by
  unfold index?
  split
  · simp [Fin.ext_iff]
  · rename_i h
    have := i.isLt
    simp only [reduceCtorEq, false_iff]
    omega

theorem Role.ofCode_eq_some_iff {n : Nat} {r : Role} : Role.ofCode n = some r ↔ n = r.code := by
  constructor
  · unfold Role.ofCode
    split <;> rintro ⟨⟩ <;> rfl
  · rintro rfl
    cases r <;> rfl

theorem Priority.ofCode_eq_some_iff {n : Nat} {p : Priority} :
    Priority.ofCode n = some p ↔ n = p.code := by
  constructor
  · unfold Priority.ofCode
    split <;> rintro ⟨⟩ <;> rfl
  · rintro rfl
    cases p <;> rfl

theorem optionalField_eq_none_iff {v : Nat} : optionalField v = none ↔ v = 65535 := by
  unfold optionalField
  split <;> simp_all [absent16]

theorem optionalField_eq_some_iff {v n : Nat} : optionalField v = some n ↔ v = n ∧ v ≠ 65535 := by
  unfold optionalField
  split <;> simp_all [absent16]

theorem map_optionalField {α : Type} (g : Nat → α) (v : Nat) :
    (optionalField v).map g = if v = 65535 then none else some (g v) := by
  unfold optionalField
  exact apply_ite (Option.map g) _ _ _

/-! ## Roles by their code -/

theorem Role.code_bounds (r : Role) : 1 ≤ r.code ∧ r.code ≤ 4 := by cases r <;> decide

theorem Role.code_eq_four_iff {r : Role} : r.code = 4 ↔ r = .tail := by cases r <;> decide

theorem Role.code_eq_three_iff {r : Role} : r.code = 3 ↔ r = .transit := by cases r <;> decide

/-- The roles that use an ingress degree are those of the followers. -/
theorem Context.head_eq_false_of_code {c : Context} (h : 3 ≤ c.role.code) : c.head = false := by
  unfold Context.head
  cases hr : c.role with
  | origin | answer => rw [hr] at h; exact absurd h (by decide)
  | transit | tail => rfl

theorem Priority.code_cases (p : Priority) : p.code = 1 ∨ p.code = 2 := by cases p <;> decide

namespace State

/-! ## A command frame that is refused (R181, R182) -/

theorem discardResponse_eq_taken (s : State) : s.discardResponse = s.taken := by
  unfold discardResponse taken
  split <;> rename_i hb
  · rw [if_pos hb]
  · rw [if_neg (by rw [hb]; nofun)]
    rfl
  · rw [if_neg (by rw [hb]; nofun)]
    rfl

/-- A complete frame that the part state admits is refused with the status its own checks give. -/
theorem answer_of_body_error {s : State} {admission : Admission} {length : Nat} {p : List Byte}
    {body : State → Except Status (List Byte × State)} {status : Status}
    (hadm : admission.refusal s.part = none) (hlen : p.length = length)
    (hbody : body s.taken = .error status) :
    s.answer admission length p body = s.refused status := by
  have hpart : admission.refusal s.taken.part = none := hadm
  simp only [answer, discardResponse_eq_taken, hpart, hlen, hbody, if_true]
  rfl

/-! ## The degrees and the group of a new record (R14) -/

variable {s : State} {f : OpenFields}

theorem usedDegree_eq_some_iff {v : Nat} {d : Degree} :
    s.usedDegree v = some d ↔ v = d.val ∧ s.present d = true := by
  simp only [usedDegree, Option.bind_eq_some_iff, index?_eq_some_iff, Option.ite_none_right_eq_some,
    Option.some.injEq]
  constructor
  · rintro ⟨e, hv, hp, rfl⟩
    exact ⟨hv, hp⟩
  · rintro ⟨hv, hp⟩
    exact ⟨d, hv, hp, rfl⟩

/-- R17: the existing members of a group have an egress degree. -/
theorem members_have_egress_iff {g : Nat} {e : Degree} :
    (allSlots.all fun i => (s.ctx i).all fun c => !c.memberOf g || c.egress == some e) = true ↔
      ∀ j x, s.ctx j = some x → x.live = true → x.group = some g → x.egress = some e := by
  simp only [List.all_eq_true, mem_allSlots, forall_const]
  constructor
  · intro h j x hx hlive hgroup
    have hj := h j
    rw [hx] at hj
    simpa [Context.memberOf, hlive, hgroup] using hj
  · intro h j
    cases hx : s.ctx j with
    | none => rfl
    | some x =>
      by_cases hm : x.live = true ∧ x.group = some g
      · simp [h j x hx hm.1 hm.2]
      · have hnot : x.memberOf g = false := by simpa [Context.memberOf] using hm
        simp [hnot]

theorem groupAdmits_iff {g : Nat} {e : Degree} :
    s.groupAdmits g e = true ↔ 1 ≤ g ∧ g ≤ 15 ∧
      (∀ j x, s.ctx j = some x → x.live = true → x.group = some g → x.egress = some e) ∧
      (allSlots.filter fun j => (s.ctx j).any fun x => x.live && x.group == some g).length < 16 := by
  simp only [groupAdmits, Bool.and_eq_true, decide_eq_true_eq, members_have_egress_iff, and_assoc]
  rfl

/-- R14: a group field is absent, or its group admits a record on the egress degree. -/
def GroupFits (s : State) (f : OpenFields) (e : Degree) (group : Option Nat) : Prop :=
  f.group = sent group ∧ ∀ g, group = some g → s.groupAdmits g e = true

/-- The degrees and the group of a record on an egress degree, as `roleFields` gives them. -/
def groupedFields (s : State) (f : OpenFields) (e : Degree) (ingress : Option Degree) :
    Option (Option Degree × Option Degree × Option Nat) :=
  match optionalField f.group with
  | none => some (ingress, some e, none)
  | some g => if s.groupAdmits g e then some (ingress, some e, some g) else none

theorem roleFields_origin :
    s.roleFields .origin f = (s.usedDegree f.egress).bind fun e => s.groupedFields f e none := rfl

theorem roleFields_answer :
    s.roleFields .answer f = (s.usedDegree f.egress).bind fun e => s.groupedFields f e none := rfl

theorem roleFields_transit :
    s.roleFields .transit f = (s.usedDegree f.egress).bind fun e =>
      (s.usedDegree f.ingress).bind fun i =>
        if i = e then none else s.groupedFields f e (some i) := rfl

theorem groupFits_of_groupedFields {e : Degree} {ingress ing eg : Option Degree} {group : Option Nat}
    (h : s.groupedFields f e ingress = some (ing, eg, group)) :
    ing = ingress ∧ eg = some e ∧ s.GroupFits f e group := by
  unfold groupedFields at h
  split at h
  · rename_i hf
    cases h
    exact ⟨rfl, rfl, optionalField_eq_none_iff.mp hf, nofun⟩
  · rename_i g hf
    rw [Option.ite_none_right_eq_some] at h
    obtain ⟨hadm, h⟩ := h
    cases h
    refine ⟨rfl, rfl, (optionalField_eq_some_iff.mp hf).1, ?_⟩
    rintro _ ⟨⟩
    exact hadm

theorem transitFields_eq_some {ing eg : Option Degree} {group : Option Nat}
    (h : s.roleFields .transit f = some (ing, eg, group)) :
    ∃ e d, ing = some d ∧ eg = some e ∧ d ≠ e ∧ (f.egress = e.val ∧ s.present e = true) ∧
      (f.ingress = d.val ∧ s.present d = true) ∧ s.GroupFits f e group := by
  rw [roleFields_transit] at h
  obtain ⟨e, he, h⟩ := Option.bind_eq_some_iff.mp h
  obtain ⟨d, hd, h⟩ := Option.bind_eq_some_iff.mp h
  obtain ⟨hne, h⟩ := Option.ite_none_left_eq_some.mp h
  obtain ⟨hing, heg, hfits⟩ := groupFits_of_groupedFields h
  exact ⟨e, d, hing, heg, hne, usedDegree_eq_some_iff.mp he, usedDegree_eq_some_iff.mp hd, hfits⟩

theorem tailFields_eq_some {ing eg : Option Degree} {group : Option Nat}
    (h : s.roleFields .tail f = some (ing, eg, group)) :
    ∃ d, ing = some d ∧ eg = none ∧ group = none ∧ (f.ingress = d.val ∧ s.present d = true) ∧
      f.group = 65535 := by
  simp only [roleFields] at h
  obtain ⟨d, hd, h⟩ := Option.bind_eq_some_iff.mp h
  split at h
  · rename_i hf
    cases h
    exact ⟨d, rfl, rfl, rfl, usedDegree_eq_some_iff.mp hd, optionalField_eq_none_iff.mp hf⟩
  · cases h

/-! ## What the checks of R14 let through -/

/-- The degrees and the group of a record of a role, as the fields name them and the table admits them. -/
structure RoleFits (s : State) (f : OpenFields) (role : Role) (ing eg : Option Degree)
    (grp : Option Nat) : Prop where
  noEgress : role = .tail → eg = none
  egress : role ≠ .tail → ∃ e, eg = some e ∧ f.egress = e.val ∧ s.present e = true
  noIngress : role = .origin ∨ role = .answer → ing = none
  ingress : role = .transit ∨ role = .tail →
    ∃ d, ing = some d ∧ f.ingress = d.val ∧ s.present d = true
  distinct : role = .transit → ing ≠ eg
  group : f.group = sent grp
  admitted : ∀ g, grp = some g → role ≠ .tail ∧ ∃ e, eg = some e ∧ s.groupAdmits g e = true

/-- A head has the egress degree and the group that the fields name, and no ingress degree. -/
theorem roleFits_of_headFields {role : Role} {ing eg : Option Degree} {group : Option Nat}
    (htransit : role ≠ .transit) (htail : role ≠ .tail)
    (h : ((s.usedDegree f.egress).bind fun e => s.groupedFields f e none) = some (ing, eg, group)) :
    s.RoleFits f role ing eg group := by
  obtain ⟨e, he, h⟩ := Option.bind_eq_some_iff.mp h
  obtain ⟨rfl, rfl, hgroup, hadm⟩ := groupFits_of_groupedFields h
  exact ⟨fun ht => absurd ht htail, fun _ => ⟨e, rfl, usedDegree_eq_some_iff.mp he⟩, fun _ => rfl,
    fun hf => (hf.elim htransit htail).elim, fun ht => absurd ht htransit, hgroup,
    fun g hg => ⟨htail, e, rfl, hadm g hg⟩⟩

theorem roleFits_of_roleFields {role : Role} {ing eg : Option Degree} {group : Option Nat}
    (h : s.roleFields role f = some (ing, eg, group)) : s.RoleFits f role ing eg group := by
  cases role with
  | origin => exact roleFits_of_headFields nofun nofun (roleFields_origin ▸ h)
  | answer => exact roleFits_of_headFields nofun nofun (roleFields_answer ▸ h)
  | transit =>
    obtain ⟨e, d, rfl, rfl, hne, he, hd, hgroup, hadm⟩ := transitFields_eq_some h
    exact ⟨nofun, fun _ => ⟨e, rfl, he⟩, nofun, fun _ => ⟨d, rfl, hd⟩,
      fun _ hde => hne (Option.some.inj hde), hgroup, fun g hg => ⟨nofun, e, rfl, hadm g hg⟩⟩
  | tail =>
    obtain ⟨d, rfl, rfl, rfl, hd, hgroup⟩ := tailFields_eq_some h
    exact ⟨fun _ => rfl, fun hne => absurd rfl hne, nofun, fun _ => ⟨d, rfl, hd⟩,
      nofun, hgroup, nofun⟩

/-- A record that the checks of R14 let through is described by the fields. -/
theorem describes_of_newRecord {c : Context} (h : s.newRecord f = some c) : s.Describes f c := by
  simp only [newRecord, Option.bind_eq_some_iff, Option.map_eq_some_iff] at h
  obtain ⟨role, hrole, tone, htone, channel, hchannel, priority, hpriority, ⟨ing, eg, group⟩,
    hfields, rfl⟩ := h
  have hfits := roleFits_of_roleFields hfields
  exact {
    role := Role.ofCode_eq_some_iff.mp hrole
    tone := index?_eq_some_iff.mp htone
    channel := index?_eq_some_iff.mp hchannel
    priority := Priority.ofCode_eq_some_iff.mp hpriority
    noEgress := hfits.noEgress
    egress := hfits.egress
    noIngress := fun hh => hfits.noIngress (by simpa [Context.head] using hh)
    ingress := fun hh => hfits.ingress (by cases role <;> simp_all [Context.head])
    distinct := hfits.distinct
    group := hfits.group
    admitted := fun g hg => by
      obtain ⟨hrole, e, he, hadm⟩ := hfits.admitted g hg
      obtain ⟨hlow, hhigh, hmembers, hcount⟩ := groupAdmits_iff.mp hadm
      exact ⟨hlow, hhigh, hrole,
        fun j x hx hlive hxg => (hmembers j x hx hlive hxg).trans he.symm, hcount⟩
    targetOverride := map_optionalField _ _
    sNom := rfl
    tTol := rfl
    deadline := rfl }

/-- A group that the fields name is the record's. -/
theorem Describes.group_eq {c : Context} (h : s.Describes f c) (hg : f.group ≠ 65535) :
    c.group = some f.group := by
  have hsent := h.group
  cases hc : c.group with
  | none => rw [hc] at hsent; exact absurd hsent hg
  | some g => rw [hc] at hsent; exact congrArg some hsent.symm

/-- R14: fields that describe a record which the table admits give no reason for BAD_FIELD. -/
theorem Describes.not_badFields {c : Context} (h : s.Describes f c) : ¬ s.BadFields f := by
  have htone := c.tone.isLt
  have hchannel := c.channel.isLt
  unfold BadFields
  rw [h.role, h.tone, h.channel, h.priority]
  rintro (hbad | hbad | hbad | hbad | ⟨hrole, hbad⟩ | ⟨hrole, hbad⟩ | ⟨hrole, hbad⟩ | ⟨hg, hbad⟩ |
    ⟨hrole, hg⟩ | ⟨hg, j, x, hx, hlive, hxg, hbad⟩ | ⟨hg, hbad⟩)
  · exact hbad c.role.code_bounds
  · omega
  · omega
  · exact hbad c.priority.code_cases
  · obtain ⟨e, -, he⟩ := h.egress (mt Role.code_eq_four_iff.mpr hrole)
    exact hbad ⟨e, he⟩
  · obtain ⟨d, -, hd⟩ := h.ingress (Context.head_eq_false_of_code hrole)
    exact hbad ⟨d, hd⟩
  · obtain ⟨d, hd, hdv, -⟩ := h.ingress (Context.head_eq_false_of_code hrole.ge)
    have htransit := Role.code_eq_three_iff.mp hrole
    obtain ⟨e, he, hev, -⟩ := h.egress (by rw [htransit]; nofun)
    refine h.distinct htransit ?_
    rw [hd, he, Fin.ext (hdv.symm.trans (hbad.trans hev))]
  · obtain ⟨hlow, hhigh, -⟩ := h.admitted _ (h.group_eq hg)
    exact hbad ⟨hlow, hhigh⟩
  · obtain ⟨-, -, hnot, -⟩ := h.admitted _ (h.group_eq hg)
    exact hnot (Role.code_eq_four_iff.mp hrole)
  · obtain ⟨-, -, hnot, hmembers, -⟩ := h.admitted _ (h.group_eq hg)
    obtain ⟨e, he, hev, -⟩ := h.egress hnot
    refine hbad ?_
    rw [hmembers j x hx hlive hxg, he, hev]
    rfl
  · obtain ⟨-, -, -, -, hcount⟩ := h.admitted _ (h.group_eq hg)
    omega

/-- R14. -/
theorem newRecord_of_badFields (h : s.BadFields f) : s.newRecord f = none :=
  Option.eq_none_iff_forall_ne_some.mpr fun _ hc => (describes_of_newRecord hc).not_badFields h

/-! ## The table with a slot's ENDED record discarded (R13, R17) -/

theorem still_modCtx (s : State) (i : Slot) (g : Context → Context) :
    (s.modCtx i g).still = s.still := by
  unfold modCtx
  split
  · rfl
  · exact still_putRecord s i _

theorem still_unbind (s : State) (i : Slot) : (s.unbind i).still = s.still := by
  unfold unbind
  split
  · rfl
  · exact still_modCtx s _ _

theorem still_forgetEntries (s : State) (i : Slot) : (s.forgetEntries i).still = s.still := by
  unfold forgetEntries
  split <;> rfl

theorem still_setRecord (s : State) (i : Slot) (c : Option Context) :
    (s.setRecord i c).still = s.still := rfl

theorem still_clearChange (s : State) (i : Slot) : (s.clearChange i).still = s.still := rfl

theorem still_discardRecord (s : State) (i : Slot) : (s.discardRecord i).still = s.still := by
  unfold discardRecord
  split
  · rfl
  · rw [still_clearChange, still_setRecord, still_forgetEntries, still_unbind]

/-- R17: the partner of the record that goes loses its reference, and every other record stays. -/
theorem ctx_unbind (s : State) (i j : Slot) :
    (s.unbind i).ctx j = (s.ctx j).map fun x => x.leftBy j i ((s.ctx i).bind (·.partner)) := by
  unfold unbind
  cases hp : (s.ctx i).bind (·.partner) with
  | none => simp [Context.leftBy]
  | some p =>
    by_cases hjp : j = p
    · subst hjp
      cases hj : s.ctx j with
      | none => simp [modCtx, hj]
      | some x =>
        simp only [ctx_modCtx_self s hj, Option.map_some, Context.leftBy]
        split <;> simp_all
    · have hpj : p ≠ j := Ne.symm hjp
      simp [ctx_modCtx_of_ne s hjp, Context.leftBy, hpj]

theorem ctx_forgetEntries (s : State) (i j : Slot) : (s.forgetEntries i).ctx j = s.ctx j := by
  unfold forgetEntries
  split <;> rfl

theorem ctx_clearChange (s : State) (i j : Slot) : (s.clearChange i).ctx j = s.ctx j := rfl

/-- R13, R17: the slot is IDLE, and the partner of the record that went has lost its reference. -/
theorem ctx_discardRecord (s : State) (i j : Slot) :
    (s.discardRecord i).ctx j =
      if i = j then none
      else (s.ctx j).map fun x => x.leftBy j i ((s.ctx i).bind (·.partner)) := by
  unfold discardRecord
  cases hi : s.ctx i with
  | none =>
    by_cases hij : i = j
    · rw [if_pos hij, ← hij, hi]
    · simp [hij, Context.leftBy]
  | some c =>
    dsimp only
    rw [ctx_clearChange, ctx_setRecord, ctx_forgetEntries, ctx_unbind, hi]

theorem present_discardRecord (s : State) (i : Slot) (d : Degree) :
    (s.discardRecord i).present d = s.present d := by
  have hconfig : (s.discardRecord i).config = s.config :=
    congrArg Still.config (still_discardRecord s i)
  simp only [present, degreeCfg, cfg, hconfig]

/-- A test of live records that does not look at the partner finds in each slot, after the discard of an
ENDED record, what it found before. -/
theorem any_live_discardRecord {s : State} {i : Slot} {test : Context → Bool}
    (hended : ∀ c, s.ctx i = some c → c.state = .ended)
    (htest : ∀ x p, test { x with partner := p } = test x) (j : Slot) :
    ((s.discardRecord i).ctx j).any (fun x => x.live && test x) =
      (s.ctx j).any fun x => x.live && test x := by
  have hleft : ∀ (x : Context) p, ((x.leftBy j i p).live && test (x.leftBy j i p)) =
      (x.live && test x) := by
    intro x p
    unfold Context.leftBy
    split
    · rw [htest]
      rfl
    · rfl
  rw [ctx_discardRecord]
  by_cases hij : i = j
  · subst hij
    cases hi : s.ctx i with
    | none => simp
    | some c => simp [Context.live, hended c hi]
  · rw [if_neg hij, Option.any_map]
    exact congrArg (fun g => (s.ctx j).any g) (funext fun x => hleft x _)

theorem exists_live_iff_any {s : State} {P : Context → Prop} [DecidablePred P] :
    (∃ j x, s.ctx j = some x ∧ x.live = true ∧ P x) ↔
      ∃ j, (s.ctx j).any (fun x => x.live && decide (P x)) = true := by
  simp [Option.any_eq_true]

/-- What some live record has, some live record has after the discard of an ENDED record. -/
theorem exists_live_discardRecord {s : State} {i : Slot} {P : Context → Prop} [DecidablePred P]
    (hended : ∀ c, s.ctx i = some c → c.state = .ended)
    (hP : ∀ x p, P { x with partner := p } ↔ P x) :
    (∃ j x, (s.discardRecord i).ctx j = some x ∧ x.live = true ∧ P x) ↔
      ∃ j x, s.ctx j = some x ∧ x.live = true ∧ P x := by
  simp only [exists_live_iff_any,
    any_live_discardRecord (test := fun x => decide (P x)) hended fun x p =>
      decide_eq_decide.mpr (hP x p)]

/-- R13, R14: the reasons for BAD_FIELD are the same with the slot's ENDED record discarded. -/
theorem badFields_discardRecord {s : State} {f : OpenFields} {i : Slot}
    (hended : ∀ c, s.ctx i = some c → c.state = .ended) :
    (s.discardRecord i).BadFields f ↔ s.BadFields f := by
  have hmembers := exists_live_discardRecord
    (P := fun x => x.group = some f.group ∧ x.egress.map (·.val) ≠ some f.egress)
    hended fun _ _ => Iff.rfl
  have hcount : ∀ j, (((s.discardRecord i).ctx j).any fun x => x.live && x.group == some f.group) =
      (s.ctx j).any fun x => x.live && x.group == some f.group :=
    any_live_discardRecord hended fun _ _ => rfl
  simp only [BadFields, present_discardRecord, hmembers, hcount]

/-! ## The checks in their order (R13) -/

/-- R13, checks 1 and 2: a slot in IDLE or ENDED goes on. -/
theorem openSlot_of_not_live {s : State} {v : Nat} {i : Slot} (hv : v = i.val)
    (hended : ∀ c, s.ctx i = some c → c.state = .ended) : s.openSlot v = .ok i := by
  have hnot : (s.ctx i).any (·.live) = false := by
    cases hi : s.ctx i with
    | none => rfl
    | some c => simp [Context.live, hended c hi]
  simp only [openSlot, index?_eq_some_iff.mpr hv, hnot]
  rfl

theorem claimRecord_of_badFields {s : State} {f : OpenFields} (h : s.BadFields f) :
    s.claimRecord f = .error .badField := by
  simp only [claimRecord, newRecord_of_badFields h]

theorem openRecord_of_claim_error {p : List Byte} {s : State} {i : Slot} {status : Status}
    (hslot : s.openSlot (OpenFields.ofPayload p).slot = .ok i)
    (hclaim : (s.discardRecord i).claimRecord (OpenFields.ofPayload p) = .error status) :
    openRecord p s = .error status := by
  simp only [openRecord, hslot, hclaim]

theorem adoptRecord_of_claim_error {p : List Byte} {s : State} {i : Slot} {status : Status}
    (hslot : s.openSlot (OpenFields.ofPayload p).slot = .ok i)
    (hclaim : (s.discardRecord i).claimRecord (OpenFields.ofPayload p) = .error status) :
    adoptRecord p s = .error status := by
  simp only [adoptRecord, hslot, hclaim]

end State

/-! ## OPEN and ADOPT refused -/

open State

theorem exec_openContext (p : List Byte) (s : State) :
    exec (.openContext p) s = .next (s.answer .running 26 p (openRecord p)) := rfl

theorem exec_adopt (p : List Byte) (s : State) :
    exec (.adopt p) s = .next (s.answer .running 26 p (adoptRecord p)) := rfl

/-- Settles O15: what R14 lets through is described by the fields, and described fields give none of its
reasons; the reasons stand with the slot's ENDED record discarded, so the body of either command answers
BAD_FIELD. -/
theorem openRefusesBadFields : Obligations.OpenRefusesBadFields := by
  intro p s i hrun hlen hslot hended hbad
  have hclaim : (s.taken.discardRecord i).claimRecord (OpenFields.ofPayload p) = .error .badField :=
    claimRecord_of_badFields ((badFields_discardRecord (s := s.taken) hended).mpr hbad)
  have hopen : s.taken.openSlot (OpenFields.ofPayload p).slot = .ok i :=
    openSlot_of_not_live hslot hended
  have hadm : Admission.running.refusal s.part = none := by rw [hrun]; rfl
  rw [exec_openContext, exec_adopt,
    answer_of_body_error hadm hlen (openRecord_of_claim_error hopen hclaim),
    answer_of_body_error hadm hlen (adoptRecord_of_claim_error hopen hclaim)]
  exact ⟨rfl, rfl⟩

end Sys2Proof.Machine
end

section
/-! SUPPORT. The check of a tone word (R33) and the rotations that qualify by it (R35). -/

namespace Sys2Proof.Machine

/-! ## The check of a tone word (R33) -/

/-- Adding below the low bit of a multiple of 2^i is an exclusive-or: no bit is in both. -/
theorem two_pow_mul_add_eq_xor_of_lt {i b : Nat} (hb : b < 2 ^ i) (a : Nat) :
    2 ^ i * a + b = 2 ^ i * a ^^^ b := by
  refine Nat.eq_of_testBit_eq fun j => ?_
  rw [Nat.testBit_two_pow_mul_add a hb, Nat.testBit_xor, Nat.testBit_two_pow_mul]
  split
  case isTrue hj => simp [Nat.not_le.mpr hj]
  case isFalse hj =>
    have hbit : b.testBit j = false :=
      Nat.testBit_lt_two_pow (hb.trans_le (Nat.pow_le_pow_right Nat.two_pos (Nat.not_lt.mp hj)))
    simp [Nat.not_lt.mp hj, hbit]

/-- V of R33 has 16 bits, and its two lowest are 0. -/
theorem toneValue_le {channel code index : Nat} (hch : channel < 128) (hcode : code < 8)
    (hidx : index < 16) : channel * 512 + code * 64 + index * 4 ≤ 65532 := by
  omega

theorem toneCheck_le {channel code index : Nat} (hch : channel < 128) (hcode : code < 8)
    (hidx : index < 16) : toneCheck channel code index ≤ 15 := by
  have hv := toneValue_le hch hcode hidx
  have hlt : toneCheck channel code index < 2 ^ 4 :=
    Nat.xor_lt_two_pow (Nat.xor_lt_two_pow (Nat.xor_lt_two_pow (by omega) (by omega)) (by omega))
      (by omega)
  exact Nat.le_of_lt_succ hlt

/-- What a code adds to the check: its high bit stands lowest in the second group of V, its two low bits
highest in the third. -/
def codeShare (code : Nat) : Nat := code / 4 ^^^ 4 * (code % 4)

theorem codeShare_injOn :
    ∀ code < 8, ∀ code' < 8, codeShare code' = codeShare code → code' = code := by
  decide

/-- A code has bits of its own in the groups of V, so it enters the check by an exclusive-or. -/
theorem toneCheck_eq_xor_codeShare {channel code index : Nat} (hcode : code < 8) (hidx : index < 16) :
    toneCheck channel code index = toneCheck channel 0 index ^^^ codeShare code := by
  have second (x : Nat) (hx : x < 8) :
      (channel * 512 + x * 64 + index * 4) / 256 % 16 = 2 * (channel % 8) ^^^ x / 4 := by
    have hdisj : 2 * (channel % 8) + x / 4 = 2 * (channel % 8) ^^^ x / 4 :=
      two_pow_mul_add_eq_xor_of_lt (i := 1) (by omega) _
    omega
  have third (x : Nat) (hx : x < 8) :
      (channel * 512 + x * 64 + index * 4) / 16 % 16 = 4 * (x % 4) ^^^ index / 4 := by
    have hdisj : 4 * (x % 4) + index / 4 = 4 * (x % 4) ^^^ index / 4 :=
      two_pow_mul_add_eq_xor_of_lt (i := 2) (by omega) _
    omega
  have first : (channel * 512 + code * 64 + index * 4) / 4096 =
      (channel * 512 + 0 * 64 + index * 4) / 4096 := by omega
  have fourth : (channel * 512 + code * 64 + index * 4) % 16 =
      (channel * 512 + 0 * 64 + index * 4) % 16 := by omega
  simp only [toneCheck, codeShare, first, fourth, second code hcode, third code hcode,
    second 0 (by decide), third 0 (by decide), Nat.zero_div, Nat.zero_mod, Nat.mul_zero,
    Nat.xor_zero, Nat.zero_xor]
  ac_rfl

theorem toneCheck_ne_of_code_ne {channel code code' index : Nat} (hcode : code < 8) (hcode' : code' < 8)
    (hidx : index < 16) (hne : code' ≠ code) :
    toneCheck channel code' index ≠ toneCheck channel code index := by
  rw [toneCheck_eq_xor_codeShare hcode' hidx, toneCheck_eq_xor_codeShare hcode hidx, ne_eq,
    Nat.xor_right_inj]
  exact fun h => hne (codeShare_injOn code hcode code' hcode' h)

/-! ## Rotations that qualify (R35) -/

theorem qualifies_iff {word : List Bool} :
    qualifies word = true ↔ word.take 6 = syncPattern ∧
      wordField word 20 4 =
        toneCheck (wordField word 6 7) (wordField word 13 3) (wordField word 16 4) := by
  simp only [qualifies, Bool.and_eq_true, beq_iff_eq]

/-- Settles O9: a code's bits enter the check by an exclusive-or that no other code gives, and the keyer
and the decoder use the one function. -/
theorem toneCheckIsTheExclusiveOr : Obligations.ToneCheckIsTheExclusiveOr := by
  refine ⟨fun channel code index hch hcode hidx => ⟨toneValue_le hch hcode hidx, rfl,
    toneCheck_le hch hcode hidx, fun code' hcode' hne => ?_⟩, fun w => rfl, fun word hword => ?_⟩
  · exact toneCheck_ne_of_code_ne hcode hcode' hidx hne
  · exact (qualifies_iff.mp hword).2

end Sys2Proof.Machine
end

section
/-! SUPPORT. Leveling arithmetic: the step table (R116), the band test (R117), the largest size that fits
(R119, R120) and the charges (R122, R125 to R127). -/

namespace Sys2Proof.Machine

/-! ## The step table (R116) -/

theorem stepG_le_stepG {s s' : Nat} (h : s ≤ s') (h' : s' ≤ 20) : stepG s ≤ stepG s' := by
  have table : ∀ j < 21, ∀ i < j + 1, stepG i ≤ stepG j := by decide
  exact table s' (by omega) s (by omega)

theorem stepQ_le_stepQ {s s' : Nat} (h : s ≤ s') (h' : s' ≤ 20) : stepQ s ≤ stepQ s' :=
  Nat.add_le_add_left (stepG_le_stepG h h') 4096

theorem le_stepQ (s : Nat) : 4096 ≤ stepQ s := Nat.le_add_right 4096 (stepG s)

theorem stepQ_le {s : Nat} (h : s ≤ 20) : stepQ s ≤ 6492 := stepQ_le_stepQ h le_rfl

/-- R120: a SATURATED power is not below any target brightened by any size of the table. -/
theorem target_mul_stepQ_lt_saturated {P s : Nat} (hP : P ≤ 10000) (hs : s ≤ 20) :
    P * stepQ s < maxPower * 4096 :=
  calc P * stepQ s ≤ 10000 * 6492 := Nat.mul_le_mul hP (stepQ_le hs)
    _ < maxPower * 4096 := by decide

/-! ## The band test (R117) -/

/-- Below band p is under P and above band it is over P, since q(t) is at least 4096. -/
theorem not_below_and_above (p P t : Nat) :
    ¬ (p * stepQ t < P * 4096 ∧ P * stepQ t < p * 4096) := by
  rintro ⟨hbelow, habove⟩
  have hpP : p < P := Nat.lt_of_mul_lt_mul_right ((Nat.mul_le_mul_left p (le_stepQ t)).trans_lt hbelow)
  have hPp : P < p := Nat.lt_of_mul_lt_mul_right ((Nat.mul_le_mul_left P (le_stepQ t)).trans_lt habove)
  exact hpP.asymm hPp

theorem bandTest_eq_below_iff {p P t : Nat} : bandTest p P t = .below ↔ p * stepQ t < P * 4096 := by
  unfold bandTest
  split_ifs with hbelow <;> simp [hbelow]

theorem bandTest_eq_above_iff {p P t : Nat} : bandTest p P t = .above ↔ P * stepQ t < p * 4096 := by
  have hexcl := not_below_and_above p P t
  unfold bandTest
  split_ifs with hbelow habove
  · simpa using fun habove => hexcl ⟨hbelow, habove⟩
  · simp [habove]
  · simp [habove]

theorem bandTest_eq_within_iff {p P t : Nat} :
    bandTest p P t = .within ↔ ¬ p * stepQ t < P * 4096 ∧ ¬ P * stepQ t < p * 4096 := by
  rw [← bandTest_eq_below_iff, ← bandTest_eq_above_iff]
  cases bandTest p P t <;> decide

theorem bandTest_zero {P t : Nat} (hP : 1 ≤ P) : bandTest 0 P t = .below :=
  bandTest_eq_below_iff.mpr (by omega)

theorem bandTest_saturated {P t : Nat} (hP : P ≤ 10000) (ht : t ≤ 20) :
    bandTest maxPower P t = .above :=
  bandTest_eq_above_iff.mpr (target_mul_stepQ_lt_saturated hP ht)

/-- Settles O3: the two tests exclude each other because q(t) is at least 4096. -/
theorem bandTestClasses : Obligations.BandTestClasses := by
  refine ⟨fun p P t _ hP hP' _ ht => ⟨bandTest_eq_below_iff, bandTest_eq_above_iff,
    bandTest_eq_within_iff, not_below_and_above p P t, ?_, ?_⟩, by decide⟩
  · rintro rfl
    exact bandTest_zero hP
  · rintro rfl
    exact bandTest_saturated hP' (by omega)

/-! ## The largest size that fits -/

/-- The whole numbers from 1 to `n` that fit: what `largest` chooses from. -/
def fitting (fits : Nat → Bool) (n : Nat) : Set Nat := {s | 1 ≤ s ∧ s ≤ n ∧ fits s = true}

@[simp] theorem mem_fitting {fits : Nat → Bool} {n s : Nat} :
    s ∈ fitting fits n ↔ 1 ≤ s ∧ s ≤ n ∧ fits s = true := Iff.rfl

theorem isGreatest_fitting_succ_of_fits {fits : Nat → Bool} {n : Nat} (h : fits (n + 1) = true) :
    IsGreatest (fitting fits (n + 1)) (n + 1) :=
  ⟨⟨Nat.le_add_left 1 n, le_rfl, h⟩, fun _ ⟨_, hle, _⟩ => hle⟩

theorem fitting_succ_of_not_fits {fits : Nat → Bool} {n : Nat} (h : ¬ fits (n + 1) = true) :
    fitting fits (n + 1) = fitting fits n := by
  ext s
  refine ⟨fun ⟨hpos, hle, hfit⟩ => ⟨hpos, ?_, hfit⟩, fun ⟨hpos, hle, hfit⟩ => ⟨hpos, by omega, hfit⟩⟩
  have hne : s ≠ n + 1 := fun heq => h (heq ▸ hfit)
  omega

theorem isGreatest_of_largest_eq_some {fits : Nat → Bool} {n s : Nat} (h : largest fits n = some s) :
    IsGreatest (fitting fits n) s := by
  induction n with
  | zero => cases h
  | succ n ih =>
    rw [largest] at h
    split at h
    case isTrue hfit =>
      cases h
      exact isGreatest_fitting_succ_of_fits hfit
    case isFalse hfit =>
      rw [fitting_succ_of_not_fits hfit]
      exact ih h

theorem fitting_eq_empty_of_largest_eq_none {fits : Nat → Bool} {n : Nat} (h : largest fits n = none) :
    fitting fits n = ∅ := by
  induction n with
  | zero =>
    ext s
    simp only [mem_fitting, Set.mem_empty_iff_false, iff_false]
    omega
  | succ n ih =>
    rw [largest] at h
    split at h
    case isTrue => cases h
    case isFalse hfit =>
      rw [fitting_succ_of_not_fits hfit]
      exact ih h

/-- Where size 1 fits, there is a largest size, and the planner's default is not taken. -/
theorem isGreatest_largest_getD {fits : Nat → Bool} {n : Nat} (hn : 1 ≤ n) (h1 : fits 1 = true) :
    IsGreatest (fitting fits n) ((largest fits n).getD 1) := by
  cases h : largest fits n with
  | some s => exact isGreatest_of_largest_eq_some h
  | none =>
    have hmem : 1 ∈ fitting fits n := ⟨le_rfl, hn, h1⟩
    rw [fitting_eq_empty_of_largest_eq_none h] at hmem
    cases hmem

/-- The form in which R119 and R120 say that a size is the largest. -/
theorem isGreatest_fitting_iff {fits : Nat → Bool} {n s : Nat} :
    IsGreatest (fitting fits n) s ↔
      1 ≤ s ∧ s ≤ n ∧ fits s = true ∧ ∀ s', s < s' → s' ≤ n → ¬ fits s' = true := by
  constructor
  · rintro ⟨⟨hpos, hle, hfit⟩, hmax⟩
    refine ⟨hpos, hle, hfit, fun s' hlt hle' hfit' => ?_⟩
    exact (hmax ⟨by omega, hle', hfit'⟩).not_gt hlt
  · rintro ⟨hpos, hle, hfit, hmax⟩
    refine ⟨⟨hpos, hle, hfit⟩, fun s' ⟨_, hle', hfit'⟩ => ?_⟩
    exact Nat.not_lt.mp fun hlt => hmax s' hlt hle' hfit'

/-- When the top of the range fits, it is the largest. -/
theorem eq_of_isGreatest_fitting {fits : Nat → Bool} {n s : Nat} (h : IsGreatest (fitting fits n) s)
    (hn : 1 ≤ n) (hfit : fits n = true) : s = n := by
  obtain ⟨⟨_, hle, _⟩, hmax⟩ := h
  exact hle.antisymm (hmax ⟨hn, le_rfl, hfit⟩)

/-! ## The DOWN step (R118, R119) -/

theorem planStep_below_at_zero {p P t : Nat} (sNom : Nat) (h : bandTest p P t = .below) :
    planStep p P t sNom 0 = .settle (some .short) := by
  simp [planStep, h]

theorem planStep_below {p P t a : Nat} (sNom : Nat) (h : bandTest p P t = .below) (ha : 1 ≤ a) :
    planStep p P t sNom a = .move .down (downSize p P sNom a) := by
  simp [planStep, h, Nat.one_le_iff_ne_zero.mp ha]

/-- R119: q(1) is at most q(t), and below band p × q(t) is under P × 4096. -/
theorem one_fits_of_below {p P t : Nat} (ht : 1 ≤ t) (ht' : t ≤ 20) (h : bandTest p P t = .below) :
    p * stepQ 1 ≤ P * 4096 :=
  (Nat.mul_le_mul_left p (stepQ_le_stepQ ht ht')).trans (bandTest_eq_below_iff.mp h).le

theorem isGreatest_downSize {p P sNom a : Nat} (hs : 1 ≤ sNom) (ha : 1 ≤ a)
    (h1 : p * stepQ 1 ≤ P * 4096) :
    IsGreatest (fitting (fun s => p * stepQ s ≤ P * 4096) (min sNom a)) (downSize p P sNom a) :=
  isGreatest_largest_getD (le_min hs ha) (decide_eq_true h1)

/-- Settles O4: below band size 1 fits, so the planner's size is the greatest of those that fit. -/
theorem downStepIsTheLargestThatFits : Obligations.DownStepIsTheLargestThatFits := by
  intro p P t sNom a _ _ _ ht ht' hs _ hband
  refine ⟨fun ha ha' => ?_, planStep_below_at_zero sNom hband⟩
  have h1 := one_fits_of_below ht (by omega) hband
  have hgreatest := isGreatest_downSize hs ha h1
  obtain ⟨hpos, hle, hfit, hmax⟩ := isGreatest_fitting_iff.mp hgreatest
  simp only [decide_eq_true_eq] at hfit hmax
  refine ⟨downSize p P sNom a, planStep_below sNom hband ha, hpos, hle, hfit, hmax, h1,
    stepQ_le_stepQ ht (by omega), ?_, rfl, by omega⟩
  rintro rfl
  exact eq_of_isGreatest_fitting hgreatest (le_min hs ha) (by simp)

/-! ## The UP step (R118, R120) -/

theorem planStep_above_at_maxAtten {p P t : Nat} (sNom : Nat) (h : bandTest p P t = .above) :
    planStep p P t sNom maxAtten = .settle (some .excess) := by
  simp [planStep, h]

theorem planStep_above {p P t a : Nat} (sNom : Nat) (h : bandTest p P t = .above) (ha : a < maxAtten) :
    planStep p P t sNom a = .move .up (upSize p P sNom a) := by
  simp [planStep, h, Nat.not_le.mpr ha]

/-- R120: above band p × 4096 is over P × q(t), and q(t) is at least q(1). -/
theorem one_fits_of_above {p P t : Nat} (ht : 1 ≤ t) (ht' : t ≤ 20) (h : bandTest p P t = .above) :
    P * stepQ 1 ≤ p * 4096 :=
  (Nat.mul_le_mul_left P (stepQ_le_stepQ ht ht')).trans (bandTest_eq_above_iff.mp h).le

theorem isGreatest_upSize {p P sNom a : Nat} (hs : 1 ≤ sNom) (ha : a < maxAtten)
    (h1 : P * stepQ 1 ≤ p * 4096) :
    IsGreatest (fitting (fun s => P * stepQ s ≤ p * 4096) (min sNom (maxAtten - a)))
      (upSize p P sNom a) :=
  isGreatest_largest_getD (le_min hs (Nat.sub_pos_of_lt ha)) (decide_eq_true h1)

/-- Settles O5: above band size 1 fits, so the planner's size is the greatest of those that fit. -/
theorem upStepIsTheLargestThatFits : Obligations.UpStepIsTheLargestThatFits := by
  intro p P t sNom a _ _ hP ht ht' hs hs' hband
  refine ⟨fun ha => ?_, planStep_above_at_maxAtten sNom hband⟩
  have hlt : a < maxAtten := Nat.lt_succ_of_le ha
  have h1 := one_fits_of_above ht (by omega) hband
  have hgreatest := isGreatest_upSize hs hlt h1
  obtain ⟨hpos, hle, hfit, hmax⟩ := isGreatest_fitting_iff.mp hgreatest
  simp only [decide_eq_true_eq, maxAtten] at hle hfit hmax
  refine ⟨upSize p P sNom a, planStep_above sNom hband hlt, hpos, hle, hfit, hmax, h1, ?_, rfl,
    by omega, by omega⟩
  rintro rfl
  have htop : min sNom (maxAtten - a) ≤ 20 := (min_le_left ..).trans hs'
  exact eq_of_isGreatest_fitting hgreatest (le_min hs (Nat.sub_pos_of_lt hlt))
    (decide_eq_true (target_mul_stepQ_lt_saturated hP htop).le)

/-! ## The charges (R122, R125 to R127) -/

theorem one_le_brightenCharge (p s : Nat) : 1 ≤ brightenCharge p s := le_max_left ..

/-- R126: dimming loses the fraction G[s] / q(s), brightening gains G[s] / 4096. -/
theorem dimCharge_le_brightenCharge (p s : Nat) : dimCharge p s ≤ brightenCharge p s :=
  max_le_max_left 1 (Nat.div_le_div_left (le_stepQ s) (by decide))

/-- Settles O6: the charges are the rules' formulas as they stand; that dimming costs at most what
brightening does is `dimCharge_le_brightenCharge`. -/
theorem stepChargesAreTheFormulas : Obligations.StepChargesAreTheFormulas :=
  ⟨fun p s _ _ => ⟨rfl, rfl, rfl, rfl, one_le_brightenCharge p s, dimCharge_le_brightenCharge p s⟩,
    fun _ _ => rfl, fun _ => rfl, by decide, by decide⟩

end Sys2Proof.Machine
end

section
/-! SUPPORT. What a command keeps: one relation for the blocks outside the Context Table and the Keyer Bank
(`State.Keeps`), one with those two (`State.Goes`), and what carries each from a shared operation. -/

namespace Sys2Proof.Machine

/-! ## The relations -/

/-- What every command but the RESET pin, RESTART, its completion and CONFIGURE keeps outside the Context
Table and the Keyer Bank. -/
structure State.Keeps (s t : State) : Prop where
  part : t.part = s.part
  config : t.config = s.config
  pending : t.pending = s.pending
  links : ∀ d, (s.link d).Shaped → (t.link d).Shaped
  silent : s.part ≠ .run → ∀ d, (s.link d).command = none → (t.link d).command = none
  queue : s.QueueInv → t.QueueInv
  census : s.CensusInv → t.CensusInv
  budgets : s.BudgetInv → t.BudgetInv

/-- What a command besides keeps that opens, frees and clears no record. -/
structure State.Goes (s t : State) : Prop extends State.Keeps s t where
  records : ∀ i, sameSlot Context.Evolves (s.ctx i) (t.ctx i)
  marks : s.Marks t
  bank : s.KeyersInv → t.KeyersInv

/-- The window of a budget has frames left within a length, and its allowance is in range (R130, R135). -/
def Budget.Fits (b : Budget) (length : Nat) : Prop :=
  ∀ w, b.window = some w → 1 ≤ w.framesLeft ∧ w.framesLeft ≤ length ∧
    ∀ a, w.allowance = some a → 1 ≤ a.budget ∧ a.remaining ≤ a.budget

namespace State

variable {s t u : State}

theorem Keeps.refl (s : State) : s.Keeps s := ⟨rfl, rfl, rfl, fun _ => id, fun _ _ => id, id, id, id⟩

theorem Keeps.trans (h1 : s.Keeps t) (h2 : t.Keeps u) : s.Keeps u where
  part := h2.part.trans h1.part
  config := h2.config.trans h1.config
  pending := h2.pending.trans h1.pending
  links d h := h2.links d (h1.links d h)
  silent hp d h := h2.silent (by rwa [h1.part]) d (h1.silent hp d h)
  queue h := h2.queue (h1.queue h)
  census h := h2.census (h1.census h)
  budgets h := h2.budgets (h1.budgets h)

theorem Goes.refl (s : State) : s.Goes s :=
  ⟨Keeps.refl s, fun _ => sameSlot_refl Context.Evolves.refl _, Marks.refl s, id⟩

theorem Goes.trans (h1 : s.Goes t) (h2 : t.Goes u) : s.Goes u :=
  ⟨h1.toKeeps.trans h2.toKeeps, fun i => sameSlot_trans Context.Evolves.trans (h1.records i) (h2.records i),
    h1.marks.trans h2.marks h1.part, fun h => h2.bank (h1.bank h)⟩

theorem Goes.foldl {α : Type} {f : State → α → State} (h : ∀ (s : State) (a : α), s.Goes (f s a))
    (l : List α) (s : State) : s.Goes (l.foldl f s) := by
  induction l generalizing s with
  | nil => exact Goes.refl s
  | cons a l ih => exact (h s a).trans (ih (f s a))

/-! ## The scanner's invariants -/

theorem queueInv_of_tae (h : t.tae = s.tae) (hs : s.QueueInv) : t.QueueInv := by
  unfold QueueInv
  rwa [h]

theorem censusInv_of_taps (h : t.tae.taps = s.tae.taps) (hs : s.CensusInv) : t.CensusInv := by
  intro v
  have e : t.tap v = s.tap v := by simp only [tap, h]
  rw [e]
  exact hs v

/-! ## Budgets -/

theorem cfg_of_config (h : t.config = s.config) : t.cfg = s.cfg := by simp only [cfg, h]

theorem degreeCfg_of_config (h : t.config = s.config) (d : Degree) : t.degreeCfg d = s.degreeCfg d := by
  simp only [degreeCfg, cfg_of_config h]

theorem present_of_config (h : t.config = s.config) (d : Degree) : t.present d = s.present d := by
  simp only [present, degreeCfg_of_config h]

theorem BudgetInv.fits (h : s.BudgetInv) (d : Degree) : (s.budget d).Fits s.cfg.window :=
  fun w hw => ⟨(h.frames d w hw).1, (h.frames d w hw).2, fun a ha => h.spent d w a hw ha⟩

/-- R183: the window length of a part that is configured. -/
theorem BudgetInv.window_bounds (h : s.BudgetInv) (hp : s.part ≠ .unconfigured) :
    4 ≤ s.cfg.window ∧ s.cfg.window ≤ 64 := by
  cases hc : s.config with
  | none => exact absurd (h.configured.mp hc) hp
  | some c =>
    have e : s.cfg = c := by simp [cfg, hc]
    rw [e]
    exact h.length c hc

/-- The invariant of the budgets goes over to a state of the same configuration whose windows fit. -/
theorem BudgetInv.of_fits (h : s.BudgetInv) (hp : t.part = s.part) (hc : t.config = s.config)
    (hn : s.part = .unconfigured → ∀ d, (t.budget d).window = none)
    (hf : ∀ d, (t.budget d).Fits s.cfg.window) : t.BudgetInv where
  configured := by rw [hp, hc]; exact h.configured
  length := by rw [hc]; exact h.length
  unconfigured hu := hn (hp ▸ hu)
  frames d w hw := by
    rw [cfg_of_config hc]
    exact ⟨(hf d w hw).1, (hf d w hw).2.1⟩
  spent d w a hw := (hf d w hw).2.2 a

end State

theorem Budget.Spends.fits {b b' : Budget} {n : Nat} (h : b.Spends b') (hb : b.Fits n) :
    b'.Fits n := by
  cases h with
  | same => exact hb
  | spent frames cause power a a' due hs =>
    obtain ⟨h1, h2, h3⟩ := hb _ rfl
    cases hs with
    | mk budget remaining left hle =>
      rintro _ ⟨⟩
      refine ⟨h1, h2, ?_⟩
      rintro _ ⟨⟩
      obtain ⟨h4, h5⟩ := h3 _ rfl
      exact ⟨h4, hle.trans h5⟩

namespace State

variable {s t u : State}

/-! ## Links -/

/-- The request list plays no part in a link's shape. -/
theorem shaped_wire_iff {d : Degree} : (s.wire d).Shaped ↔ (s.link d).Shaped :=
  ⟨fun ⟨h1, h2, h3, h4⟩ => ⟨h1, h2, h3, h4⟩, fun ⟨h1, h2, h3, h4⟩ => ⟨h1, h2, h3, h4⟩⟩

theorem shaped_of_wire {d : Degree} (h : t.wire d = s.wire d) (hs : (s.link d).Shaped) :
    (t.link d).Shaped :=
  shaped_wire_iff.mp (h ▸ shaped_wire_iff.mpr hs)

theorem command_of_wire {d : Degree} (h : t.wire d = s.wire d) :
    (t.link d).command = (s.link d).command := by
  simpa [wire] using congrArg Link.command h

/-- A link that sends holds a command in BUSY with its timer running and both marks no. -/
theorem shaped_of_sends {l m : Link} (h : l.Sends m) (hl : l.Shaped) : m.Shaped := by
  rcases h with rfl | ⟨-, hb, hc, -, ht, ha, hr, -⟩
  · exact hl
  · have hn : m.command ≠ none := by
      intro e
      simp [e] at hc
    exact ⟨by simp [hb, hc], by simp [hb, ht], fun e => absurd e hn, by simp [hb]⟩

/-! ## What goes -/

/-- An operation that leaves the Context Table, the bindings of keyers and the change flags alone. -/
theorem Keeps.goes_of_same (h : s.Keeps t) (hc : t.contexts = s.contexts)
    (he : t.events.change = s.events.change)
    (hk : ∀ k, (t.keyer k).bound = (s.keyer k).bound) : s.Goes t := by
  have hctx : ∀ i, t.ctx i = s.ctx i := fun i => by simp only [ctx, hc]
  refine ⟨h, fun i => ?_, marks_of_same hc he, keyersInv_of_same hk fun i => ?_⟩
  · rw [hctx]
    exact sameSlot_refl Context.Evolves.refl _
  · rw [hctx]
    exact sameSlot_refl (fun _ => ⟨rfl, rfl⟩) _

/-- An operation that leaves the scanner, the budgets and the links alone. -/
theorem keeps_of_same (hp : t.part = s.part) (hc : t.config = s.config) (hq : t.pending = s.pending)
    (ht : t.tae = s.tae) (hb : t.budgets = s.budgets) (hl : ∀ d, t.wire d = s.wire d) :
    s.Keeps t where
  part := hp
  config := hc
  pending := hq
  links d := shaped_of_wire (hl d)
  silent _ d h := (command_of_wire (hl d)).trans h
  queue := queueInv_of_tae ht
  census := censusInv_of_taps (by rw [ht])
  budgets h := by
    have e : ∀ d, t.budget d = s.budget d := fun d => by simp only [budget, hb]
    exact h.of_fits hp hc (fun hu d => by rw [e]; exact h.unconfigured hu d)
      fun d => by rw [e]; exact h.fits d

theorem Reacts.goes (h : s.Reacts t) : s.Goes t :=
  ⟨keeps_of_same (congrArg Still.part h.still) (congrArg Still.config h.still)
      (congrArg Still.pending h.still) (congrArg Still.tae h.still) h.budgets h.wire,
    fun i => sameSlot_mono Context.Turns.evolves (h.records i), h.marks, h.bank⟩

theorem Calm.goes (h : s.Calm t) : s.Goes t := h.reacts.goes

/-- R165: the arbiters decide in RUN alone. -/
theorem Moves.goes (h : s.Moves t) (hp : s.part = .run) : s.Goes t where
  part := congrArg Still.part h.still
  config := congrArg Still.config h.still
  pending := congrArg Still.pending h.still
  links d hd := shaped_wire_iff.mp (shaped_of_sends (h.wire d) (shaped_wire_iff.mpr hd))
  silent hn := absurd hp hn
  queue := queueInv_of_tae (congrArg Still.tae h.still)
  census := censusInv_of_taps (congrArg (fun x => x.tae.taps) h.still)
  budgets hb := hb.of_fits (congrArg Still.part h.still) (congrArg Still.config h.still)
    (fun hu => by rw [hp] at hu; cases hu) fun d => (h.budgets d).fits (hb.fits d)
  records := h.records
  marks := h.marks
  bank := h.bank

theorem Decides.goes (h : s.Decides t) (hp : s.part = .run) : s.Goes t := h.moves.goes hp

/-- An operation on the links alone, which keeps their shape and gives none a command. -/
theorem goes_of_links (h : t = { s with links := t.links })
    (hl : ∀ d, (s.link d).Shaped → (t.link d).Shaped)
    (hn : ∀ d, (s.link d).command = none → (t.link d).command = none) : s.Goes t := by
  rw [h] at hl hn ⊢
  exact Keeps.goes_of_same
    ⟨rfl, rfl, rfl, hl, fun _ => hn, id, id, fun ⟨h1, h2, h3, h4, h5⟩ => ⟨h1, h2, h3, h4, h5⟩⟩
    rfl rfl fun _ => rfl

/-- An operation on one link, which keeps its shape and gives it no command. -/
theorem goes_modLink {d : Degree} {f : Link → Link} (hl : (s.link d).Shaped → (f (s.link d)).Shaped)
    (hn : (s.link d).command = none → (f (s.link d)).command = none) : s.Goes (s.modLink d f) := by
  refine goes_of_links rfl (fun e => ?_) fun e => ?_ <;>
    (rw [modLink, link_setLink]; split)
  · rename_i h
    exact h ▸ hl
  · exact id
  · rename_i h
    exact h ▸ hn
  · exact id

/-- An operation on the scanner alone. -/
theorem goes_of_tae (h : t = { s with tae := t.tae }) (hq : s.QueueInv → t.QueueInv)
    (hc : s.CensusInv → t.CensusInv) : s.Goes t := by
  rw [h] at hq hc ⊢
  exact Keeps.goes_of_same
    ⟨rfl, rfl, rfl, fun _ => id, fun _ _ => id, hq, hc, fun ⟨h1, h2, h3, h4, h5⟩ =>
      ⟨h1, h2, h3, h4, h5⟩⟩ rfl rfl fun _ => rfl

/-- An operation on the budgets alone. -/
theorem goes_of_budgets (h : t = { s with budgets := t.budgets })
    (hb : s.BudgetInv → t.BudgetInv) : s.Goes t := by
  rw [h] at hb ⊢
  exact Keeps.goes_of_same ⟨rfl, rfl, rfl, fun _ => id, fun _ _ => id, id, id, hb⟩ rfl rfl fun _ => rfl

/-- An operation on what no invariant speaks of: the Timebase, the response buffer, the enable set, ATTN,
the flags of degrees and links, the guards and the arbiters' wait. -/
theorem goes_of_outside
    (h : t = { s with
      timebase := t.timebase, buffer := t.buffer, spiOut := t.spiOut, mask := t.mask
      events := { t.events with change := s.events.change }
      guards := t.guards, arbiterWaits := t.arbiterWaits }) : s.Goes t := by
  rw [h]
  exact Keeps.goes_of_same (s := s) (keeps_of_same rfl rfl rfl rfl rfl fun _ => rfl) rfl rfl fun _ => rfl

end State
end Sys2Proof.Machine
end

section
/-! SUPPORT. The census and the queue of the scanner (R54, R60 to R65): what each operation keeps of their
order and ranges. -/

namespace Sys2Proof.Machine

/-! ## The priority visit queue (R54) -/

theorem enqueueTap_nodup {q : List Tap} (t : Tap) (h : q.Nodup) : (enqueueTap t q).Nodup := by
  unfold enqueueTap
  split
  · exact h
  · rename_i hn
    rw [List.contains_iff_mem] at hn
    exact List.nodup_append.mpr ⟨h, List.nodup_singleton t, fun a ha b hb e =>
      hn (by rw [← List.mem_singleton.mp hb, ← e]; exact ha)⟩

/-- There are 32 taps, so a queue that holds each at most once holds at most 32. -/
theorem length_le_of_nodup {q : List Tap} (h : q.Nodup) : q.length ≤ 32 := by
  simpa using h.length_le_card

/-! ## The census (R60) -/

/-- R60: a list of entries in strictly ascending tone index. -/
def Ascending (l : List CensusEntry) : Prop := (l.map (·.tone)).Pairwise (· < ·)

/-- R60: the census of one tap is within its size, in order, and in range. -/
def CensusOk (l : List CensusEntry) : Prop := l.length ≤ 128 ∧ Ascending l ∧ ∀ e ∈ l, e.InRange

theorem State.censusInv_iff {s : State} : s.CensusInv ↔ ∀ t, CensusOk (s.tap t).census := Iff.rfl

theorem ascending_cons {e : CensusEntry} {l : List CensusEntry} :
    Ascending (e :: l) ↔ (∀ x ∈ l, e.tone < x.tone) ∧ Ascending l := by
  simp [Ascending, List.pairwise_cons]

theorem Ascending.sublist {l m : List CensusEntry} (h : Ascending m) (hs : l.Sublist m) :
    Ascending l :=
  List.Pairwise.sublist (hs.map _) h

theorem ascending_filterMap {f : CensusEntry → Option CensusEntry} {l : List CensusEntry}
    (hf : ∀ e x, f e = some x → x.tone = e.tone) (h : Ascending l) : Ascending (l.filterMap f) := by
  induction l with
  | nil => exact h
  | cons e l ih =>
    obtain ⟨hlt, hl⟩ := ascending_cons.mp h
    rw [List.filterMap_cons]
    split
    · exact ih hl
    · rename_i x hx
      refine ascending_cons.mpr ⟨fun y hy => ?_, ih hl⟩
      obtain ⟨z, hz, hzy⟩ := List.mem_filterMap.mp hy
      rw [hf e x hx, hf z y hzy]
      exact hlt z hz

theorem mem_insertEntry {e x : CensusEntry} {l : List CensusEntry} :
    x ∈ insertEntry e l ↔ x = e ∨ x ∈ l := by
  induction l with
  | nil => simp [insertEntry]
  | cons y l ih =>
    unfold insertEntry
    split
    · simp
    · simp only [List.mem_cons, ih]
      tauto

theorem length_insertEntry (e : CensusEntry) (l : List CensusEntry) :
    (insertEntry e l).length = l.length + 1 := by
  induction l with
  | nil => rfl
  | cons y l ih =>
    unfold insertEntry
    split
    · rfl
    · simp [ih]

/-- R64: an entry of a new tone takes its ascending position. -/
theorem ascending_insertEntry {e : CensusEntry} {l : List CensusEntry} (h : Ascending l)
    (hn : ∀ x ∈ l, x.tone ≠ e.tone) : Ascending (insertEntry e l) := by
  induction l with
  | nil => simp [insertEntry, Ascending]
  | cons y l ih =>
    obtain ⟨hlt, hl⟩ := ascending_cons.mp h
    unfold insertEntry
    split
    · rename_i hey
      refine ascending_cons.mpr ⟨fun x hx => ?_, h⟩
      rcases List.mem_cons.mp hx with rfl | hx
      · exact hey
      · exact hey.trans (hlt x hx)
    · rename_i hey
      refine ascending_cons.mpr ⟨fun x hx => ?_, ih hl fun x hx => hn x (List.mem_cons_of_mem y hx)⟩
      rcases mem_insertEntry.mp hx with rfl | hx
      · exact lt_of_le_of_ne (not_lt.mp hey) (hn y List.mem_cons_self)
      · exact hlt x hx

theorem censusFind_eq_none_iff {l : List CensusEntry} {tone : Tone} :
    censusFind l tone = none ↔ ∀ x ∈ l, x.tone ≠ tone := by
  simp [censusFind, List.find?_eq_none]

theorem toneReport_power_le {threshold : Nat} {reading : VisitReading} {tone : Tone} {r : ToneReport}
    (h : toneReport threshold reading tone = some r) : r.power ≤ 316227 := by
  unfold toneReport at h
  split at h
  · cases h
  · split at h
    · cases h
      exact min_le_right _ _
    · cases h

theorem inRange_heard {e : CensusEntry} {r : ToneReport} (level : Nat) (h : e.InRange)
    (hr : r.power ≤ 316227) : (e.heard level r).InRange := by
  obtain ⟨h1, -, -, -, -, -⟩ := h
  refine ⟨hr, h1, min_le_left _ _, Nat.zero_le _, ?_, ?_⟩ <;> dsimp only [CensusEntry.heard] <;> split
  · exact Nat.zero_le _
  · exact min_le_left _ _
  · exact min_le_left _ _
  · exact Nat.zero_le _

theorem inRange_missed {e x : CensusEntry} (h : e.InRange) (hx : e.missed = some x) : x.InRange := by
  obtain ⟨h1, h2, -, -, h5, -⟩ := h
  unfold CensusEntry.missed at hx
  split at hx
  · cases hx
  · cases hx
    exact ⟨h1, h2, Nat.zero_le _, by dsimp only; omega, h5, Nat.zero_le _⟩

theorem inRange_arrival {r : ToneReport} (tone : Tone) (hr : r.power ≤ 316227) :
    (CensusEntry.arrival tone r).InRange := by
  refine ⟨hr, Nat.zero_le _, (by decide : 1 ≤ 255), Nat.zero_le _, ?_, Nat.zero_le _⟩
  dsimp only [CensusEntry.arrival]
  split <;> decide

theorem mem_of_weakest {watched : Tone → Bool} {l : List CensusEntry} {w : CensusEntry}
    (h : weakest watched l = some w) : w ∈ l ∧ watched w.tone = false := by
  induction l with
  | nil => cases h
  | cons e l ih =>
    unfold weakest at h
    split at h
    · obtain ⟨hm, hw⟩ := ih h
      exact ⟨List.mem_cons_of_mem e hm, hw⟩
    · rename_i he
      simp only [Bool.not_eq_true] at he
      split at h
      · cases h
        exact ⟨List.mem_cons_self, he⟩
      · rename_i x hx
        split at h
        · cases h
          obtain ⟨hm, hw⟩ := ih hx
          exact ⟨List.mem_cons_of_mem e hm, hw⟩
        · cases h
          exact ⟨List.mem_cons_self, he⟩

section Passes

variable {report : Tone → Option ToneReport} (hreport : ∀ tone r, report tone = some r → r.power ≤ 316227)
include hreport

/-- R61 to R63: the first pass purges entries and keeps the rest in place and in range. -/
theorem censusOk_firstPass (level : Nat) {l : List CensusEntry} (h : CensusOk l) :
    CensusOk (firstPass level report l) := by
  obtain ⟨hlen, hasc, hrange⟩ := h
  refine ⟨(List.length_filterMap_le _ _).trans hlen, ascending_filterMap (fun e x hx => ?_) hasc,
    fun x hx => ?_⟩
  · split at hx
    · cases hx
      rfl
    · unfold CensusEntry.missed at hx
      split at hx <;> cases hx
      rfl
  · obtain ⟨e, he, hx⟩ := List.mem_filterMap.mp hx
    split at hx
    · rename_i r hr
      cases hx
      exact inRange_heard level (hrange e he) (hreport _ r hr)
    · exact inRange_missed (hrange e he) hx

/-- R64, R65: one tone of the second pass. -/
theorem censusOk_admitTone (watched : Tone → Bool) {acc : List CensusEntry × Bool} (tone : Tone)
    (h : CensusOk acc.1) : CensusOk (admitTone watched report acc tone).1 := by
  obtain ⟨hlen, hasc, hrange⟩ := h
  unfold admitTone
  split
  · exact ⟨hlen, hasc, hrange⟩
  · rename_i r hr
    have harr := inRange_arrival tone (hreport tone r hr)
    split
    · exact ⟨hlen, hasc, hrange⟩
    · rename_i hnone
      have hnew := censusFind_eq_none_iff.mp (Option.not_isSome_iff_eq_none.mp hnone)
      split
      · rename_i hroom
        refine ⟨by rw [length_insertEntry]; exact hroom, ascending_insertEntry hasc hnew, fun x hx => ?_⟩
        rcases mem_insertEntry.mp hx with rfl | hx
        · exact harr
        · exact hrange x hx
      · split
        · split
          · exact ⟨hlen, hasc, hrange⟩
          · rename_i w hw
            have hsub := List.filter_sublist (p := fun e : CensusEntry => e.tone != w.tone) (l := acc.1)
            refine ⟨?_, ascending_insertEntry (hasc.sublist hsub) fun x hx => hnew x (hsub.subset hx),
              fun x hx => ?_⟩
            · rw [length_insertEntry]
              have hless : (acc.1.filter fun e => e.tone != w.tone).length < acc.1.length :=
                List.length_filter_lt_length_iff_exists.mpr ⟨w, (mem_of_weakest hw).1, by simp⟩
              omega
            · rcases mem_insertEntry.mp hx with rfl | hx
              · exact harr
              · exact hrange x (hsub.subset hx)
        · exact ⟨hlen, hasc, hrange⟩

theorem censusOk_secondPass (watched : Tone → Bool) {l : List CensusEntry} (h : CensusOk l) :
    CensusOk (secondPass watched report l).1 := by
  unfold secondPass
  have key : ∀ (tones : List Tone) (acc : List CensusEntry × Bool), CensusOk acc.1 →
      CensusOk (tones.foldl (admitTone watched report) acc).1 := by
    intro tones
    induction tones with
    | nil => exact fun _ h => h
    | cons tone tones ih => exact fun acc h => ih _ (censusOk_admitTone hreport watched tone h)
  exact key _ _ h

end Passes

end Sys2Proof.Machine
end

section
/-! SUPPORT. Every operation of an event goes (`State.Goes`): one lemma for each. -/

namespace Sys2Proof.Machine

namespace State

variable {s t u : State}

theorem Goes.run (h : s.Goes t) (hp : s.part = .run) : t.part = .run := h.part.trans hp

theorem Goes.configured (h : s.Goes t) (hp : s.part ≠ .unconfigured) : t.part ≠ .unconfigured := by
  rwa [h.part]

theorem configured_of_run (hp : s.part = .run) : s.part ≠ .unconfigured := by
  rw [hp]
  nofun

/-! ## Flags, guards and the arbiters' wait -/

theorem goes_markDegree (s : State) (d : Degree) (f : DegreeFlags → DegreeFlags) :
    s.Goes (s.markDegree d f) := by
  unfold markDegree
  split
  · exact Goes.refl s
  · exact goes_of_outside rfl

theorem goes_markLink (s : State) (d : Degree) (f : LinkFlags → LinkFlags) :
    s.Goes (s.markLink d f) := by
  unfold markLink
  split
  · exact Goes.refl s
  · exact goes_of_outside rfl

theorem goes_setGuard (s : State) (d : Degree) (g : Guard) : s.Goes (s.setGuard d g) :=
  goes_of_outside rfl

theorem goes_setWaits (s : State) (b : Bool) : s.Goes (s.setWaits b) := goes_of_outside rfl

theorem goes_taken (s : State) : s.Goes s.taken := goes_of_outside rfl

theorem goes_refused (s : State) (status : Status) : s.Goes (s.refused status) := goes_of_outside rfl

theorem goes_accepted (s : State) (payload : List Byte) : s.Goes (s.accepted payload) :=
  goes_of_outside rfl

/-! ## Windows (R131, R132) -/

/-- R132, R133: a window starts with its length of frames left and its whole budget. -/
theorem fits_start {cfg : PartConfig} {deg : DegreeConfig} {cause : StartCause} {power : Nat} {due : Bool}
    (h : 4 ≤ cfg.window) :
    Budget.Fits { window := some (Window.start cfg deg cause power), boundaryDue := due } cfg.window := by
  rintro _ ⟨⟩
  refine ⟨by dsimp only [Window.start]; omega, le_rfl, fun a ha => ?_⟩
  dsimp only [Window.start] at ha
  split at ha
  · cases ha
  · cases ha
    exact ⟨le_max_left _ _, le_rfl⟩

theorem goes_setBudget {d : Degree} {b : Budget} (hp : s.part ≠ .unconfigured)
    (hb : s.BudgetInv → b.Fits s.cfg.window) : s.Goes (s.setBudget d b) := by
  refine goes_of_budgets rfl fun h => h.of_fits rfl rfl (fun hu => absurd hu hp) fun e => ?_
  rw [budget_setBudget]
  split
  · exact hb h
  · exact h.fits e

theorem goes_startWindow (hp : s.part ≠ .unconfigured) (d : Degree) (cause : StartCause) :
    s.Goes (s.startWindow d cause) :=
  (goes_setBudget hp fun h => fits_start (h.window_bounds hp).1).trans (calm_modRequests _ d _).goes

theorem goes_crossBoundary (hp : s.part = .run) (d : Degree) : s.Goes (s.crossBoundary d) := by
  have h1 : s.Goes (s.setBudget d { s.budget d with boundaryDue := false }) :=
    goes_setBudget (configured_of_run hp) fun h => h.fits d
  have h2 := h1.trans (goes_startWindow (h1.configured (configured_of_run hp)) d .boundary)
  exact h2.trans ((decides_arbitrate _).goes (h2.run hp))

/-! ## The guard state (R155 to R158) -/

theorem goes_putGuard (hp : s.part ≠ .unconfigured) (d : Degree) (g : Guard) :
    s.Goes (s.putGuard d g) := by
  have h1 := goes_setGuard s d g
  unfold putGuard
  dsimp only
  split
  · exact (h1.trans (goes_markDegree _ d _)).trans (calm_modRequests _ d _).goes
  · split
    · have h2 := h1.trans (goes_markDegree _ d fun f => { f with guardLeft := true })
      exact (h2.trans (goes_startWindow (h2.configured hp) d .guardExit)).trans
        (calm_modRequests _ d _).goes
    · exact h1

theorem goes_testExcursion (hp : s.part ≠ .unconfigured) (t : Tap) : s.Goes (s.testExcursion t) := by
  unfold testExcursion
  split
  · exact goes_putGuard hp _ _
  · exact Goes.refl s

theorem goes_addExpected (s : State) (d : Degree) (change : Int) : s.Goes (s.addExpected d change) :=
  goes_setGuard s d _

/-! ## Visits (R51 to R61) -/

theorem goes_setTap {v : Tap} {r : TapRecord} (h : s.CensusInv → CensusOk r.census) :
    s.Goes (s.setTap v r) := by
  refine goes_of_tae rfl id fun hc => censusInv_iff.mpr fun w => ?_
  rw [tap_setTap]
  split
  · exact h hc
  · exact hc w

theorem goes_capturePower (s : State) (v : Tap) (reading : VisitReading) :
    s.Goes (s.capturePower v reading) := by
  have h1 : s.Goes (s.setTap v
      { s.tap v with latest := some (readingOf reading.total), prior := (s.tap v).latest }) :=
    goes_setTap fun h => h v
  unfold capturePower
  dsimp only
  split
  · exact h1.trans (goes_markDegree _ _ _)
  · exact h1

theorem goes_updateCensus (s : State) (v : Tap) (reading : VisitReading) :
    s.Goes (s.updateCensus v reading) := by
  have hr := fun tone r => toneReport_power_le (threshold := s.cfg.presence) (reading := reading)
    (tone := tone) (r := r)
  have h1 : s.Goes (s.setTap v { s.tap v with
      census := (secondPass (s.watched v) (toneReport s.cfg.presence reading)
        (firstPass s.cfg.stabilityLevel (toneReport s.cfg.presence reading) (s.tap v).census)).1 }) :=
    goes_setTap fun h => censusOk_secondPass hr _ (censusOk_firstPass hr _ (h v))
  unfold updateCensus
  dsimp only
  split
  · exact h1.trans (goes_markDegree _ _ _)
  · exact h1

theorem goes_enqueue (s : State) (v : Tap) : s.Goes (s.enqueue v) := by
  refine goes_of_tae rfl (fun ⟨hn, _, hr⟩ => ?_) (censusInv_of_taps rfl)
  have hn' := enqueueTap_nodup v hn
  exact ⟨hn', length_le_of_nodup hn', hr⟩

theorem goes_enqueueGuarded (s : State) (v : Tap) : s.Goes (s.enqueueGuarded v) := by
  unfold enqueueGuarded
  refine Goes.foldl (fun s d => ?_) _ s
  split
  · exact goes_enqueue s _
  · exact Goes.refl s

theorem goes_beginRoundRobin (s : State) : s.Goes s.beginRoundRobin := by
  unfold beginRoundRobin
  split
  · exact goes_of_tae rfl (fun ⟨hn, hl, _⟩ => ⟨hn, hl, Nat.zero_le _⟩) (censusInv_of_taps rfl)
  · exact goes_of_tae rfl (fun ⟨hn, hl, _⟩ => ⟨hn, hl, Nat.zero_le _⟩) (censusInv_of_taps rfl)

theorem goes_chooseVisit (s : State) : s.Goes s.chooseVisit := by
  unfold chooseVisit
  split
  · rename_i v rest hq
    split
    · rename_i hrun
      refine goes_of_tae rfl (fun ⟨hn, hl, _⟩ => ?_) (censusInv_of_taps rfl)
      rw [hq] at hn hl
      exact ⟨(List.nodup_cons.mp hn).2, (Nat.le_succ _).trans hl, hrun⟩
    · exact goes_beginRoundRobin s
  · exact goes_beginRoundRobin s

/-- The arbiters decide after an operation of a part in RUN. -/
theorem Goes.arbitrate (h : s.Goes t) (hp : s.part = .run) : s.Goes t.arbitrate :=
  h.trans ((decides_arbitrate t).goes (h.run hp))

theorem Goes.receiveAll (h : s.Goes t) (hp : s.part = .run) (v : Tap) : s.Goes (t.receiveAll v) :=
  h.trans ((moves_receiveAll t v).goes (h.run hp))

theorem Goes.testExcursion (h : s.Goes t) (hp : s.part = .run) (v : Tap) : s.Goes (t.testExcursion v) :=
  h.trans (goes_testExcursion (configured_of_run (h.run hp)) v)

theorem Goes.setWaits (h : s.Goes t) (b : Bool) : s.Goes (t.setWaits b) := h.trans (goes_setWaits t b)

theorem goes_useReport (hp : s.part = .run) (v : Tap) (moment : ArbiterMoment) :
    s.Goes (s.useReport v moment) := by
  cases moment with
  | atPosting => exact (((Goes.refl s).receiveAll hp v).testExcursion hp v).arbitrate hp
  | afterTakings =>
    exact ((((((Goes.refl s).setWaits true).receiveAll hp v).setWaits false).arbitrate hp).testExcursion
      hp v).arbitrate hp
  | afterTest =>
    exact (((((Goes.refl s).setWaits true).receiveAll hp v).testExcursion hp v).setWaits
      false).arbitrate hp

theorem goes_endVisit (hp : s.part = .run) (v : Tap) (reading : VisitReading) (moment : ArbiterMoment) :
    s.Goes (s.endVisit v reading moment) := by
  have h1 := (goes_capturePower s v reading).trans (goes_updateCensus _ v reading)
  exact ((h1.trans (goes_useReport (h1.run hp) v moment)).trans (goes_enqueueGuarded _ v)).trans
    (goes_chooseVisit _)

/-! ## Keyers (R37, R41, R44) -/

theorem goes_setKeyer (s : State) (k : KeyerNo) {x : Keyer} (h : x.bound = (s.keyer k).bound) :
    s.Goes (s.setKeyer k x) := by
  refine Keeps.goes_of_same (s := s) (keeps_of_same rfl rfl rfl rfl rfl fun _ => rfl) rfl rfl fun j => ?_
  rw [keyer_setKeyer]
  split
  · rename_i e
    exact e ▸ h
  · rfl

theorem goes_advanceSymbol (s : State) (k : KeyerNo) : s.Goes (s.advanceSymbol k) := by
  unfold advanceSymbol
  dsimp only
  split
  · exact Goes.refl s
  · split
    · exact goes_setKeyer s k (by split <;> rfl)
    · exact Goes.refl s

theorem goes_crossWord (s : State) (k : KeyerNo) : s.Goes (s.crossWord k) := by
  unfold crossWord
  dsimp only
  split
  · exact goes_setKeyer s k rfl
  · exact Goes.refl s

/-- R44: the keyer and the record that names it are parted together, with the record marked. -/
theorem keyersInv_expire {i : Slot} {c d : Context} {k : KeyerNo} (h : s.ctx i = some c)
    (hb : (s.keyer k).bound = some i) (hd : d.keyer = none) (hs : s.KeyersInv) :
    ((s.setKeyer k Keyer.free).putRecord i (some d)).KeyersInv := by
  have hck : c.keyer = some k := by
    obtain ⟨x, hx, hxk⟩ := hs.bound k i hb
    rw [h] at hx
    cases hx
    exact hxk
  have hrel := keyersInv_release s h hck hs
  have hj (j : KeyerNo) : ((s.setKeyer k Keyer.free).putRecord i (some d)).keyer j =
      ((s.setKeyer k Keyer.free).putRecord i (some { c with keyer := none })).keyer j := by
    simp only [keyer, keyers_putRecord]
  refine ⟨fun j x m hx hm => ?_, fun m j hm => ?_⟩
  · rw [ctx_putRecord] at hx
    split at hx
    · cases hx
      rw [hd] at hm
      cases hm
    · rename_i e
      rw [hj]
      exact hrel.named j x m (by rw [ctx_putRecord, if_neg e]; exact hx) hm
  · rw [hj] at hm
    obtain ⟨x, hx, hxm⟩ := hrel.bound m j hm
    rw [ctx_putRecord] at hx ⊢
    split at hx
    · cases hx
      cases hxm
    · rename_i e
      rw [if_neg e]
      exact ⟨x, hx, hxm⟩

theorem modCtx_of_some {i : Slot} {c : Context} (h : s.ctx i = some c) (f : Context → Context) :
    s.modCtx i f = s.putRecord i (some (f c)) := by
  unfold modCtx
  rw [h]

theorem modCtx_of_none {i : Slot} (h : s.ctx i = none) (f : Context → Context) : s.modCtx i f = s := by
  unfold modCtx
  rw [h]

theorem goes_expireLinger (s : State) (k : KeyerNo) : s.Goes (s.expireLinger k) := by
  unfold expireLinger
  dsimp only
  split
  · rename_i hb
    exact goes_setKeyer s k hb.symm
  · rename_i i hb
    cases hc : s.ctx i with
    | none =>
      rw [modCtx_of_none (s := s.setKeyer k Keyer.free) hc]
      refine ⟨keeps_of_same rfl rfl rfl rfl rfl fun _ => rfl,
        fun _ => sameSlot_refl Context.Evolves.refl _, marks_of_same rfl rfl, fun h => ?_⟩
      obtain ⟨c, hi, -⟩ := h.bound k i hb
      rw [hc] at hi
      cases hi
    | some c =>
      rw [modCtx_of_some (s := s.setKeyer k Keyer.free) hc]
      have hstill := still_putRecord (s.setKeyer k Keyer.free) i
        (some { c with keyer := none, flags := { c.flags with keyerReleased := true } })
      refine ⟨keeps_of_same (congrArg Still.part hstill) (congrArg Still.config hstill)
        (congrArg Still.pending hstill) (congrArg Still.tae hstill) (budgets_putRecord _ _ _)
        (wire_putRecord _ _ _), fun j => ?_, marks_putRecord (s.setKeyer k Keyer.free) i _,
        keyersInv_expire hc hb rfl⟩
      rw [ctx_putRecord]
      split
      · rename_i e
        subst e
        rw [hc]
        exact ⟨rfl, fun h => ⟨h, rfl, rfl, rfl⟩, Or.inl, Or.inl, id, fun h _ => ⟨h, rfl⟩, Or.inl rfl,
          Or.inr rfl, rfl, fun f => ⟨f.drift, f.cause, f.outcome, f.portClosed⟩⟩
      · exact sameSlot_refl Context.Evolves.refl _

/-! ## Switch links (R169 to R178) -/

theorem goes_quieten (s : State) (d : Degree) : s.Goes (s.quieten d) :=
  (goes_modLink (fun _ => ⟨by simp, by simp, fun _ => ⟨rfl, rfl⟩, by simp⟩) fun _ => rfl).trans
    (calm_syncLink _ d).goes

theorem goes_completeCommand (hp : s.part = .run) (d : Degree) : s.Goes (s.completeCommand d) := by
  unfold completeCommand
  refine Goes.arbitrate ?_ hp
  split
  · exact (goes_quieten s d).trans (goes_markLink _ d _)
  · exact goes_quieten s d

theorem goes_dropCommand (s : State) (d : Degree) : s.Goes (s.dropCommand d) := by
  unfold dropCommand
  split
  · exact Goes.refl s
  · exact (reacts_clearSteps s _).goes.trans (goes_quieten _ d)

theorem Moves.foldl_goes {α : Type} {f : State → α → State}
    (h : ∀ (s : State) (a : α), s.Moves (f s a)) (hp : s.part = .run) (l : List α) : s.Goes (l.foldl f s) :=
  (Moves.foldl h l s).goes hp

theorem goes_doneInRun (hp : s.part = .run) (d : Degree) (entries : List CommandEntry) (read : Atten) :
    s.Goes (s.doneInRun d entries read) := by
  have h1 := (Moves.foldl_goes (f := fun s e => s.doneEntry e read) (fun s e => moves_doneEntry s e read)
    hp entries).trans (goes_addExpected _ d (entries.map s.entryChange).sum)
  have h2 := h1.trans (Goes.foldl (fun s v => goes_enqueue s v) (s.measureTaps entries) _)
  exact h2.trans (goes_completeCommand (h2.run hp) d)

/-- R171, R178: the last refusal is no part of a link's shape. -/
theorem goes_lastRefusal (s : State) (d : Degree) (reason : Nat) :
    s.Goes (s.modLink d fun l => { l with lastRefusal := some reason }) :=
  goes_modLink (fun ⟨h1, h2, h3, h4⟩ => ⟨h1, h2, h3, h4⟩) id

theorem goes_refuseInRun (hp : s.part = .run) (d : Degree) (entries : List CommandEntry)
    (reason : Nat) : s.Goes (s.refuseInRun d entries reason) := by
  have h1 := (Moves.foldl_goes (f := fun s e => s.refuseEntry e reason)
    (fun s e => moves_refuseEntry s e reason) hp entries).trans (goes_lastRefusal _ d reason)
  exact h1.trans (goes_completeCommand (h1.run hp) d)

theorem goes_takeDone (s : State) (d : Degree) (number value : Byte) :
    s.Goes (s.takeDone d number value) := by
  unfold takeDone
  split
  · exact Goes.refl s
  · split
    · exact Goes.refl s
    · split
      · split
        · rename_i hp
          exact goes_doneInRun hp d _ _
        · exact goes_dropCommand s d
      · exact Goes.refl s

theorem goes_takeRefuse (s : State) (d : Degree) (number reason : Byte) :
    s.Goes (s.takeRefuse d number reason) := by
  unfold takeRefuse
  split
  · exact Goes.refl s
  · split
    · split
      · rename_i hp
        exact goes_refuseInRun hp d _ _
      · exact (goes_lastRefusal s d _).trans (goes_dropCommand _ d)
    · exact Goes.refl s

theorem goes_takeAccept (s : State) (d : Degree) (number : Byte) : s.Goes (s.takeAccept d number) := by
  unfold takeAccept
  split
  · rename_i h
    refine goes_modLink (fun ⟨h1, h2, h3, h4⟩ => ⟨h1, h2, fun e => ?_, h4⟩) id
    have e' : (s.link d).command = none := e
    simp [Link.matches, e'] at h
  · exact Goes.refl s

/-- R173, R175: a link that holds a command sends it again. -/
theorem goes_resend (s : State) (d : Degree)
    (h : (s.link d).state = .busy ∨ (s.link d).state = .faulted) : s.Goes (s.resend d) := by
  refine Goes.trans (goes_modLink (fun ⟨h1, h2, h3, h4⟩ => ?_) id) (calm_syncLink _ d).goes
  have hc : (s.link d).command.isSome = true := h1.mpr (h.imp id Or.inr)
  exact ⟨by simp [hc], by simp, h3, by simp⟩

/-- R174: a RETRYING link keeps its command when it is FAULTED. -/
theorem goes_faultLink (s : State) (d : Degree) (h : (s.link d).state = .retrying) :
    s.Goes (s.faultLink d) := by
  refine Goes.trans (Goes.trans (goes_modLink (fun ⟨h1, h2, h3, h4⟩ => ?_) id) (goes_markLink _ d _))
    (calm_syncLink _ d).goes
  have hc : (s.link d).command.isSome = true := h1.mpr (Or.inr (Or.inl h))
  refine ⟨by simp [hc], by simp, fun e => ?_, fun _ => rfl⟩
  have e' : (s.link d).command = none := e
  simp [e'] at hc

theorem goes_timeOut (s : State) (d : Degree) : s.Goes (s.timeOut d) := by
  unfold timeOut
  split
  · exact goes_dropCommand s d
  · split
    · rename_i h
      exact goes_resend s d (Or.inl h)
    · rename_i h
      exact goes_faultLink s d h
    all_goals exact Goes.refl s

/-! ## The Timebase (R131, R180) -/

theorem link_tabulate (f : Degree → Link) (d : Degree) : ({ s with links := tabulate 8 f }).link d = f d := by
  simp [link]

theorem budget_tabulate (f : Degree → Budget) (d : Degree) :
    ({ s with budgets := tabulate 8 f }).budget d = f d := by
  simp [budget]

theorem goes_tickMs (s : State) : s.Goes s.tickMs := by
  have h1 : s.Goes { s with links := tabulate 8 s.countTimer } := by
    refine goes_of_links rfl (fun d => ?_) fun d => ?_ <;> rw [link_tabulate]
    · exact fun ⟨h1, h2, h3, h4⟩ => ⟨h1, by simpa [countTimer] using h2, h3, h4⟩
    · exact id
  exact h1.trans (goes_of_outside rfl)

theorem fits_countFrames {d : Degree} {n : Nat} (h : (s.budget d).Fits n) :
    (s.countFrames d).Fits n := by
  unfold countFrames
  dsimp only
  split
  · exact h
  · rename_i w hw
    obtain ⟨h1, h2, h3⟩ := h w hw
    split
    · rintro _ ⟨⟩
      exact ⟨by dsimp only; omega, by dsimp only; omega, h3⟩
    · exact h

theorem goes_tickFrame (s : State) : s.Goes s.tickFrame := by
  unfold tickFrame
  dsimp only
  split
  · rename_i hp
    have h1 : s.Goes { s with budgets := tabulate 8 s.countFrames } := by
      refine goes_of_budgets rfl fun h => h.of_fits rfl rfl (fun hu => by rw [hp] at hu; cases hu)
        fun d => ?_
      rw [budget_tabulate]
      exact fits_countFrames (h.fits d)
    have h2 : Goes { s with budgets := tabulate 8 s.countFrames }
        { s with budgets := tabulate 8 s.countFrames, tae := { s.tae with ended := true } } :=
      goes_of_tae rfl id (censusInv_of_taps rfl)
    exact (h1.trans h2).trans (goes_of_outside rfl)
  · exact goes_of_outside rfl

/-! ## The port (R181) -/

theorem goes_readResponse (s : State) (count : Nat) : s.Goes (s.readResponse count) := by
  unfold readResponse
  split
  · exact goes_of_outside rfl
  · exact goes_of_outside rfl
  · split
    · exact goes_of_outside rfl
    · exact goes_of_outside rfl

theorem goes_buildResponse (s : State) : s.Goes s.buildResponse := by
  unfold buildResponse
  split
  · exact goes_of_outside rfl
  · exact Goes.refl s
  · exact Goes.refl s

end State
end Sys2Proof.Machine
end

section
/-! SUPPORT. What a command does (`Effect`): every command goes (`State.Goes`) but those that open, free
or clear records, take the event flags, or count seconds. -/

namespace Sys2Proof.Machine

namespace State

variable {s t u : State}

/-! ## A command frame (R181, R182) -/

theorem respond_taken (s : State) (status : Status) : s.taken.respond status [] = s.refused status := rfl

/-- A frame is refused with a status, or admitted and answered OK by its body. -/
theorem answer_cases (s : State) (admission : Admission) (length : Nat) (p : List Byte)
    (body : State → Except Status (List Byte × State)) :
    (∃ status, s.answer admission length p body = s.refused status) ∨
      ∃ r u, admission.refusal s.part = none ∧ p.length = length ∧ body s.taken = .ok (r, u) ∧
        s.answer admission length p body = u.accepted r := by
  have hpart : s.taken.part = s.part := rfl
  simp only [answer, discardResponse_eq_taken, hpart]
  split
  · exact Or.inl ⟨_, rfl⟩
  · rename_i hadm
    split
    · rename_i hlen
      split
      · exact Or.inl ⟨_, rfl⟩
      · rename_i r u hbody
        exact Or.inr ⟨r, u, hadm, hlen, hbody, rfl⟩
    · exact Or.inl ⟨_, rfl⟩

/-- A frame whose body goes. -/
theorem goes_answer {admission : Admission} {length : Nat} {p : List Byte}
    {body : State → Except Status (List Byte × State)}
    (h : ∀ r u, admission.refusal s.part = none → body s.taken = .ok (r, u) → s.taken.Goes u) :
    s.Goes (s.answer admission length p body) := by
  rcases answer_cases s admission length p body with ⟨status, e⟩ | ⟨r, u, hadm, -, hbody, e⟩ <;> rw [e]
  · exact goes_refused s status
  · exact ((goes_taken s).trans (h r u hadm hbody)).trans (goes_accepted u r)

theorem run_of_admitted (h : Admission.running.refusal s.part = none) : s.part = .run := by
  cases hp : s.part <;> simp [hp, Admission.refusal] at h ⊢

theorem unconfigured_of_admitted (h : Admission.configuring.refusal s.part = none) :
    s.part = .unconfigured := by
  cases hp : s.part <;> simp [hp, Admission.refusal] at h ⊢

/-! ## Bodies that go -/

theorem goes_cancelRecord {p r : List Byte} (hp : s.part = .run) (h : s.cancelRecord p = .ok (r, u)) :
    s.Goes u := by
  unfold cancelRecord at h
  split at h
  · cases h
  · split at h
    · cases h
    · split at h <;> cases h
      · exact (decides_endFully s _ _).goes hp
      · exact (decides_endFully s _ _).goes hp
      · exact (decides_withdrawFully s _ _).goes hp
      · exact (decides_withdrawFully s _ _).goes hp
      · exact (decides_withdrawFully s _ _).goes hp
      · exact (decides_withdrawFully s _ _).goes hp
      · exact (decides_withdrawFully s _ _).goes hp
      · exact ((reacts_releaseKeyer s _).decides.trans (decides_withdrawFully _ _ _)).goes hp
      · exact Goes.refl s

theorem goes_forceGuardBody {p r : List Byte} (hp : s.part = .run)
    (h : s.forceGuardBody p = .ok (r, u)) : s.Goes u := by
  unfold forceGuardBody at h
  split at h
  · cases h
  · split at h <;> cases h
    exact (goes_putGuard (configured_of_run hp) _ _).arbitrate hp

theorem goes_linkRetryBody {p r : List Byte} (h : s.linkRetryBody p = .ok (r, u)) : s.Goes u := by
  unfold linkRetryBody at h
  split at h
  · cases h
  · split at h
    · rename_i hf
      cases h
      exact goes_resend s _ (Or.inr hf)
    all_goals cases h

/-- A reading command hands its state on. -/
theorem eq_of_readBody {p r : List Byte}
    (h : s.readContextBody p = .ok (r, u) ∨ s.readCensusBody p = .ok (r, u) ∨
      s.readDegreeBody p = .ok (r, u)) : u = s := by
  rcases h with h | h | h
  · unfold readContextBody at h
    split at h <;> cases h
    rfl
  · unfold readCensusBody at h
    repeat' split at h
    all_goals cases h
    rfl
  · unfold readDegreeBody at h
    split at h <;> cases h
    rfl

theorem goes_setMaskBody {p r : List Byte} (h : s.setMaskBody p = .ok (r, u)) : s.Goes u := by
  cases h
  exact goes_of_outside rfl

theorem goes_expireDeadline (hp : s.part = .run) (i : Slot) : s.Goes (s.expireDeadline i) :=
  (decides_expireDeadline s i).goes hp

end State

open State

/-! ## The effect of a command -/

/-- What each command does: one case for each command that does not go, and one for the rest. -/
inductive Effect : Instr → State → State → Prop where
  | goes {c s t} (h : s.Goes t) : Effect c s t
  | takeEvents {p s} (r : List Byte) : Effect (.takeEvents p) s
      ((s.taken.setEvents { Events.clear with attn := s.taken.events.attn }).accepted r)
  | tickSecond {s} (h : s.part = .run) : Effect .secondTick s s.tickSecond
  | opened {p s r u} (hp : s.part = .run) (h : openRecord p s.taken = .ok (r, u)) :
      Effect (.openContext p) s (u.accepted r)
  | adopted {p s r u} (hp : s.part = .run) (h : adoptRecord p s.taken = .ok (r, u)) :
      Effect (.adopt p) s (u.accepted r)
  | freed {p s r u} (hp : s.part = .run) (h : freeSlot p s.taken = .ok (r, u)) :
      Effect (.free p) s (u.accepted r)
  | configured {p s t} (r : List Byte) (hp : s.part = .unconfigured)
      (ht : t = (s.taken.configureWith (PartConfig.ofPayload p)).accepted r) : Effect (.configure p) s t
  | restarted {p s r u} (hp : s.part = .run) (h : restartPart s.taken = .ok (r, u)) :
      Effect (.restart p) s (u.accepted r)
  | returned {s t} (hp : s.part = .restarting) (ht : t = s.returnToRun) : Effect .restartComplete s t
  | reset {s} : Effect .resetPin s s.resetPart

/-- A frame is refused or takes the effect of its body. -/
theorem effect_answer {c : Instr} {s : State} {admission : Admission} {length : Nat} {p : List Byte}
    {body : State → Except Status (List Byte × State)}
    (h : ∀ r u, admission.refusal s.part = none → body s.taken = .ok (r, u) → Effect c s (u.accepted r)) :
    Effect c s (s.answer admission length p body) := by
  rcases answer_cases s admission length p body with ⟨status, e⟩ | ⟨r, u, hadm, -, hbody, e⟩ <;> rw [e]
  · exact .goes (goes_refused s status)
  · exact h r u hadm hbody

theorem effect_ite {c : Instr} {s u : State} {p : Prop} [Decidable p] (h : p → Effect c s u) :
    Effect c s (if p then u else s) := by
  split
  · exact h ‹_›
  · exact .goes (Goes.refl s)

/-- Every command answers a next state, with the effect of that command. -/
theorem exec_effect (c : Instr) (s : State) : ∃ t, exec c s = .next t ∧ Effect c s t := by
  cases c with
  | configure p =>
    refine ⟨_, rfl, effect_answer fun r u hadm hbody => ?_⟩
    unfold configurePart at hbody
    dsimp only at hbody
    split at hbody <;> cases hbody
    exact .configured _ (unconfigured_of_admitted hadm) rfl
  | openContext p => exact ⟨_, rfl, effect_answer fun r u hadm h => .opened (run_of_admitted hadm) h⟩
  | adopt p => exact ⟨_, rfl, effect_answer fun r u hadm h => .adopted (run_of_admitted hadm) h⟩
  | cancel p =>
    exact ⟨_, rfl, .goes (goes_answer fun r u hadm h =>
      goes_cancelRecord (s := s.taken) (run_of_admitted hadm) h)⟩
  | free p => exact ⟨_, rfl, effect_answer fun r u hadm h => .freed (run_of_admitted hadm) h⟩
  | readContext p =>
    exact ⟨_, rfl, .goes (goes_answer fun r u _ h => eq_of_readBody (.inl h) ▸ Goes.refl _)⟩
  | readCensus p =>
    exact ⟨_, rfl, .goes (goes_answer fun r u _ h => eq_of_readBody (.inr (.inl h)) ▸ Goes.refl _)⟩
  | readDegree p =>
    exact ⟨_, rfl, .goes (goes_answer fun r u _ h => eq_of_readBody (.inr (.inr h)) ▸ Goes.refl _)⟩
  | takeEvents p =>
    refine ⟨_, rfl, effect_answer fun r u _ h => ?_⟩
    cases h
    exact .takeEvents _
  | setAttnMask p => exact ⟨_, rfl, .goes (goes_answer fun r u _ h => goes_setMaskBody h)⟩
  | forceGuard p =>
    exact ⟨_, rfl, .goes (goes_answer fun r u hadm h =>
      goes_forceGuardBody (s := s.taken) (run_of_admitted hadm) h)⟩
  | linkRetry p => exact ⟨_, rfl, .goes (goes_answer fun r u _ h => goes_linkRetryBody h)⟩
  | restart p => exact ⟨_, rfl, effect_answer fun r u hadm h => .restarted (run_of_admitted hadm) h⟩
  | unknownCommand code p =>
    refine ⟨_, rfl, .goes ?_⟩
    rw [discardResponse_eq_taken]
    exact goes_refused s _
  | writeIncomplete b => exact ⟨_, rfl, .goes (Goes.refl s)⟩
  | responseRead n => exact ⟨_, rfl, .goes (goes_readResponse s n)⟩
  | responseReady => exact ⟨_, rfl, .goes (goes_buildResponse s)⟩
  | resetPin => exact ⟨_, rfl, .reset⟩
  | restartComplete => exact ⟨_, rfl, effect_ite fun h => .returned h.1 rfl⟩
  | msTick => exact ⟨_, rfl, .goes (goes_tickMs s)⟩
  | secondTick =>
    refine ⟨_, rfl, effect_ite fun _ => ?_⟩
    by_cases hp : s.part = .run
    · exact .tickSecond hp
    · refine .goes ?_
      unfold tickSecond
      rw [if_neg hp]
      exact goes_of_outside rfl
  | frameTick => exact ⟨_, rfl, effect_ite fun _ => .goes (goes_tickFrame s)⟩
  | responseTimeout d => exact ⟨_, rfl, effect_ite fun _ => .goes (goes_timeOut s d)⟩
  | deadlineExpiry i =>
    refine ⟨_, rfl, effect_ite fun h => .goes (goes_expireDeadline ?_ i)⟩
    simp only [deadlineMet, Bool.and_eq_true, beq_iff_eq] at h
    exact h.1
  | lingerExpiry k => exact ⟨_, rfl, effect_ite fun _ => .goes (goes_expireLinger s k)⟩
  | windowBoundary d =>
    refine ⟨_, rfl, effect_ite fun h => .goes (goes_crossBoundary ?_ d)⟩
    simp only [boundaryMet, Bool.and_eq_true, beq_iff_eq] at h
    exact h.1
  | visitEnd reading moment =>
    refine ⟨_, rfl, .goes ?_⟩
    split
    · rename_i v hv
      unfold endedVisit at hv
      split at hv
      · rename_i h
        exact goes_endVisit h.1 v reading moment
      · cases hv
    · exact Goes.refl s
  | scanStart => exact ⟨_, rfl, effect_ite fun _ => .goes (goes_beginRoundRobin s)⟩
  | wordBoundary k => exact ⟨_, rfl, .goes (goes_crossWord s k)⟩
  | linkAccept d n => exact ⟨_, rfl, .goes (goes_takeAccept s d n)⟩
  | linkDone d n v => exact ⟨_, rfl, .goes (goes_takeDone s d n v)⟩
  | linkRefuse d n r => exact ⟨_, rfl, .goes (goes_takeRefuse s d n r)⟩
  | replyDiscarded d f => exact ⟨_, rfl, .goes (Goes.refl s)⟩
  | symbolAdvance k => exact ⟨_, rfl, .goes (goes_advanceSymbol s k)⟩

theorem effect_of_exec {c : Instr} {s t : State} (h : exec c s = .next t) : Effect c s t := by
  obtain ⟨u, hu, he⟩ := exec_effect c s
  rw [hu] at h
  cases h
  exact he

end Sys2Proof.Machine
end

section
/-! SUPPORT. What OPEN, ADOPT and FREE, CONFIGURE, RESTART and the RESET pin keep outside the Context Table, and
the invariants of the scanner, the budgets and the links. -/

namespace Sys2Proof.Machine

/-- R13, R18, R21: the new record stands in its slot, named by its partner. -/
def State.place (i : Slot) (c : Context) (s : State) : State :=
  (s.bindPartner i c.partner).putRecord i (some c)

/-- R72, R184: the part at the acceptance of RESTART, before FAULTED links drop their commands. -/
def State.restarting (s : State) : State := { s with part := .restarting }.stopScan

/-- R183: the part with a configuration, before its first windows start. -/
def State.withConfig (cfg : PartConfig) (s : State) : State :=
  { s with
    config := some cfg, part := .run
    links := tabulate 8 fun d =>
      { s.link d with state := if cfg.degrees[d].present then .idle else .absent } }

/-- R184: the part cleared, before its windows start. -/
def State.clearedPart (s : State) : State :=
  { s with
    part := .run, mask := Classes.empty, events := Events.clear
    contexts := Vector.replicate 64 none, keyers := Vector.replicate 16 Keyer.free
    tae := Tae.stopped, budgets := Vector.replicate 8 Budget.noWindow
    guards := Vector.replicate 8 Guard.clear
    links := tabulate 8 fun d => clearedLink (s.link d) (s.linkPresence d) }

namespace State

variable {s t u : State}

theorem configureWith_eq (s : State) (cfg : PartConfig) :
    s.configureWith cfg = (s.withConfig cfg).startWindows .configure := rfl

theorem returnToRun_eq (s : State) : s.returnToRun = s.clearedPart.startWindows .restart := rfl

theorem restartPart_eq (s : State) : restartPart s =
    .ok ([], if s.restarting.dropFaulted.quiet then s.restarting.dropFaulted.returnToRun
      else s.restarting.dropFaulted) := rfl

/-! ## Records and keyers that are written -/

theorem keeps_putRecord (s : State) (i : Slot) (c : Option Context) : s.Keeps (s.putRecord i c) := by
  have h := still_putRecord s i c
  exact keeps_of_same (congrArg Still.part h) (congrArg Still.config h) (congrArg Still.pending h)
    (congrArg Still.tae h) (budgets_putRecord s i c) (wire_putRecord s i c)

theorem keeps_modCtx (s : State) (i : Slot) (f : Context → Context) : s.Keeps (s.modCtx i f) := by
  unfold modCtx
  split
  · exact Keeps.refl s
  · exact keeps_putRecord s i _

theorem keeps_setKeyer (s : State) (k : KeyerNo) (x : Keyer) : s.Keeps (s.setKeyer k x) :=
  keeps_of_same rfl rfl rfl rfl rfl fun _ => rfl

theorem keeps_setRecord (s : State) (i : Slot) (c : Option Context) : s.Keeps (s.setRecord i c) :=
  keeps_of_same rfl rfl rfl rfl rfl fun _ => rfl

theorem keeps_clearChange (s : State) (i : Slot) : s.Keeps (s.clearChange i) :=
  keeps_of_same rfl rfl rfl rfl rfl fun _ => rfl

theorem keeps_unbind (s : State) (i : Slot) : s.Keeps (s.unbind i) := by
  unfold unbind
  split
  · exact Keeps.refl s
  · exact keeps_modCtx s _ _

/-- R172: entries that carry none leave the link's command, timer and marks as they are. -/
theorem goes_forgetEntries (s : State) (i : Slot) : s.Goes (s.forgetEntries i) := by
  unfold forgetEntries
  split
  · exact Goes.refl s
  · refine goes_modLink (fun ⟨h1, h2, h3, h4⟩ => ⟨by simpa using h1, h2, fun e => h3 ?_, h4⟩) fun e => ?_
    · simpa using e
    · simpa using e

theorem keeps_discardRecord (s : State) (i : Slot) : s.Keeps (s.discardRecord i) := by
  unfold discardRecord
  split
  · exact Keeps.refl s
  · exact (((keeps_unbind s i).trans (goes_forgetEntries _ i).toKeeps).trans
      (keeps_setRecord _ i none)).trans (keeps_clearChange _ i)

theorem keeps_bindPartner (s : State) (i : Slot) (p : Option Slot) : s.Keeps (s.bindPartner i p) := by
  unfold bindPartner
  split
  · exact Keeps.refl s
  · exact keeps_modCtx s _ _

theorem keeps_place (s : State) (i : Slot) (c : Context) : s.Keeps (s.place i c) :=
  (keeps_bindPartner s i c.partner).trans (keeps_putRecord _ i _)

theorem keeps_bindKeyer (s : State) (i : Slot) (k : KeyerNo) : s.Keeps (s.bindKeyer i k) := by
  have h1 := (keeps_setKeyer s k { s.keyer k with bound := some i }).trans
    (keeps_modCtx (s.setKeyer k { s.keyer k with bound := some i }) i fun c => { c with keyer := some k })
  unfold bindKeyer
  dsimp only
  split
  · exact h1
  · exact h1.trans (reacts_startKeyer _ i).goes.toKeeps

theorem keeps_freeRecord (s : State) (i : Slot) : s.Keeps (s.freeRecord i) := by
  unfold freeRecord
  split
  · exact Keeps.refl s
  · have h1 := (((reacts_releaseKeyer s i).goes.toKeeps.trans (keeps_unbind _ i)).trans
      (goes_forgetEntries _ i).toKeeps).trans (keeps_putRecord _ i none)
    dsimp only
    split
    · exact h1.trans (calm_evaluateGroupOf _ _).goes.toKeeps
    · exact h1

/-! ## OPEN, ADOPT and FREE -/

/-- R13, R18, R19: an OPEN that is accepted. -/
theorem openRecord_eq_ok {p r : List Byte} (h : openRecord p s = .ok (r, u)) :
    ∃ i c, s.openSlot (OpenFields.ofPayload p).slot = .ok i ∧
      (s.discardRecord i).claimRecord (OpenFields.ofPayload p) = .ok c ∧ r = [] ∧
      ((c.head = false ∧
          u = (s.discardRecord i).place i { c with answerHold := (s.discardRecord i).openHold c }) ∨
        c.head = true ∧ ∃ k, (s.discardRecord i).freeKeyer? = some k ∧
          u = ((s.discardRecord i).place i
            { c with answerHold := (s.discardRecord i).openHold c }).bindKeyer i k) := by
  unfold openRecord at h
  dsimp only at h
  split at h
  · cases h
  · rename_i i hslot
    split at h
    · cases h
    · rename_i c hclaim
      refine ⟨i, c, hslot, hclaim, ?_⟩
      split at h
      · rename_i hhead
        split at h <;> cases h
        rename_i k hk
        exact ⟨rfl, Or.inr ⟨hhead, k, hk, rfl⟩⟩
      · rename_i hhead
        cases h
        exact ⟨rfl, Or.inl ⟨by simpa using hhead, rfl⟩⟩

/-- R21: the record of an ADOPT that is accepted. -/
def adoptedForm (c : Context) : Context :=
  { c with
    state := .adopting, atten := .unknown
    answerHold := if c.role = .answer then some .released else none }

/-- R21: an ADOPT that is accepted. -/
theorem adoptRecord_eq_ok {p r : List Byte} (h : adoptRecord p s = .ok (r, u)) :
    ∃ i c, s.openSlot (OpenFields.ofPayload p).slot = .ok i ∧
      (s.discardRecord i).claimRecord (OpenFields.ofPayload p) = .ok c ∧ r = [] ∧
      u = (((s.discardRecord i).place i (adoptedForm c)).postRead i).arbitrate := by
  unfold adoptRecord at h
  dsimp only at h
  split at h
  · cases h
  · rename_i i hslot
    split at h <;> cases h
    rename_i c hclaim
    exact ⟨i, c, hslot, hclaim, rfl, rfl⟩

/-- R24: a FREE that is accepted. -/
theorem freeSlot_eq_ok {p r : List Byte} (h : freeSlot p s = .ok (r, u)) :
    ∃ i c, s.ctx i = some c ∧ (c.state = .ended ∨ c.state = .commissioned) ∧ r = [] ∧
      u = (s.freeRecord i).arbitrate := by
  unfold freeSlot at h
  split at h
  · cases h
  · rename_i i _
    split at h
    · cases h
    · rename_i c hc
      refine ⟨i, c, hc, ?_⟩
      split at h <;> cases h
      · exact ⟨Or.inl ‹_›, rfl, rfl⟩
      · exact ⟨Or.inr ‹_›, rfl, rfl⟩

theorem keeps_openRecord {p r : List Byte} (h : openRecord p s = .ok (r, u)) : s.Keeps u := by
  obtain ⟨i, c, -, -, -, ⟨-, rfl⟩ | ⟨-, k, -, rfl⟩⟩ := openRecord_eq_ok h
  · exact (keeps_discardRecord s i).trans (keeps_place _ i _)
  · exact ((keeps_discardRecord s i).trans (keeps_place _ i _)).trans (keeps_bindKeyer _ i k)

theorem keeps_adoptRecord {p r : List Byte} (hp : s.part = .run) (h : adoptRecord p s = .ok (r, u)) :
    s.Keeps u := by
  obtain ⟨i, c, -, -, -, rfl⟩ := adoptRecord_eq_ok h
  have h1 := ((keeps_discardRecord s i).trans (keeps_place _ i (adoptedForm c))).trans
    (calm_postRead _ i).goes.toKeeps
  exact h1.trans ((decides_arbitrate _).goes (h1.part.trans hp)).toKeeps

theorem keeps_freeSlot {p r : List Byte} (hp : s.part = .run) (h : freeSlot p s = .ok (r, u)) :
    s.Keeps u := by
  obtain ⟨i, c, -, -, -, rfl⟩ := freeSlot_eq_ok h
  have h1 := keeps_freeRecord s i
  exact h1.trans ((decides_arbitrate _).goes (h1.part.trans hp)).toKeeps

theorem keeps_tickSecond (s : State) : s.Keeps s.tickSecond := by
  unfold tickSecond
  dsimp only
  split <;> exact keeps_of_same rfl rfl rfl rfl rfl fun _ => rfl

/-! ## CONFIGURE, RESTART and the RESET pin -/

theorem goes_startWindows (hp : s.part ≠ .unconfigured) (cause : StartCause) :
    s.Goes (s.startWindows cause) := by
  have key : ∀ (l : List Degree) (t : State), s.Goes t → s.Goes
      (l.foldl (fun s d => if s.present d then s.startWindow d cause else s) t) := by
    intro l
    induction l with
    | nil => exact fun _ h => h
    | cons d l ih =>
      intro t h
      refine ih _ ?_
      dsimp only
      split
      · exact h.trans (goes_startWindow (h.configured hp) d cause)
      · exact h
  exact key allDegrees s (Goes.refl s)

theorem goes_configured (s : State) (cfg : PartConfig) : (s.withConfig cfg).Goes (s.configureWith cfg) :=
  goes_startWindows (configured_of_run rfl) .configure

theorem goes_returned (s : State) : s.clearedPart.Goes s.returnToRun :=
  goes_startWindows (configured_of_run rfl) .restart

theorem goes_dropFaulted (s : State) : s.Goes s.dropFaulted := by
  unfold dropFaulted
  refine Goes.foldl (fun s d => ?_) _ s
  split
  · exact goes_dropCommand s d
  · exact Goes.refl s

/-- R184: RESTART ends in RESTARTING, or in RUN with everything cleared. -/
theorem restartPart_eq_ok {r : List Byte} (h : restartPart s = .ok (r, u)) :
    r = [] ∧ ∃ v, s.restarting.Goes v ∧ (u = v ∨ u = v.returnToRun) := by
  rw [restartPart_eq] at h
  cases h
  refine ⟨rfl, _, goes_dropFaulted _, ?_⟩
  split
  · exact Or.inr rfl
  · exact Or.inl rfl

/-- A command keeps an invariant that the commands of `State.Keeps` keep, and CONFIGURE, RESTART, the return
to RUN and the RESET pin. -/
theorem kept_of_effect {I : State → Prop} {c : Instr} (h : Effect c s t)
    (hkeeps : ∀ {s t : State}, s.Keeps t → I s → I t)
    (hconfig : ∀ {s : State} (p : List Byte), s.part = .unconfigured → I s →
      I (s.withConfig (PartConfig.ofPayload p)))
    (hrestart : ∀ {s : State}, s.part = .run → I s → I s.restarting)
    (hreturn : ∀ {s : State}, s.part = .restarting → I s → I s.clearedPart)
    (hreset : ∀ {s : State}, I s → I s.resetPart) (hs : I s) : I t := by
  have htaken := hkeeps (goes_taken s).toKeeps hs
  have hreturned (v : State) (hp : v.part = .restarting) (hv : I v) : I v.returnToRun :=
    hkeeps (goes_returned v).toKeeps (hreturn hp hv)
  have haccepted (v : State) (r : List Byte) (hv : I v) : I (v.accepted r) :=
    hkeeps (goes_accepted v r).toKeeps hv
  cases h with
  | goes h => exact hkeeps h.toKeeps hs
  | takeEvents r =>
    exact haccepted _ r
      (hkeeps (keeps_of_same (s := s.taken) rfl rfl rfl rfl rfl fun _ => rfl) htaken)
  | tickSecond hp => exact hkeeps (keeps_tickSecond s) hs
  | opened hp h => exact haccepted _ _ (hkeeps (keeps_openRecord h) htaken)
  | adopted hp h => exact haccepted _ _ (hkeeps (keeps_adoptRecord (s := s.taken) hp h) htaken)
  | freed hp h => exact haccepted _ _ (hkeeps (keeps_freeSlot (s := s.taken) hp h) htaken)
  | configured r hp ht =>
    rw [ht]
    exact haccepted _ r (hkeeps (goes_configured _ _).toKeeps (hconfig (s := s.taken) _ hp htaken))
  | restarted hp h =>
    obtain ⟨-, v, hv, hu⟩ := restartPart_eq_ok h
    have hrestarting : I v := hkeeps hv.toKeeps (hrestart (s := s.taken) hp htaken)
    refine haccepted _ _ ?_
    rcases hu with hu | hu <;> rw [hu]
    · exact hrestarting
    · exact hreturned v hv.part hrestarting
  | returned hp ht =>
    rw [ht]
    exact hreturned s hp hs
  | reset => exact hreset hs

/-- A step runs the command at the front of its queue, or idles. -/
theorem effect_of_step (h : step s = .next t) :
    t = s ∨ ∃ c rest, s.pending = c :: rest ∧ Effect c { s with pending := rest } t := by
  unfold step at h
  split at h
  · cases h
    exact Or.inl rfl
  · rename_i c rest hq
    exact Or.inr ⟨c, rest, hq, effect_of_exec h⟩

/-- What every command keeps and the queue plays no part in, every step keeps. -/
theorem kept_of_step {I : State → Prop}
    (hqueue : ∀ {s : State} (rest : List Instr), I s → I { s with pending := rest })
    (h : ∀ {c : Instr} {s t : State}, Effect c s t → I s → I t) (hstep : step s = .next t) (hs : I s) :
    I t := by
  rcases effect_of_step hstep with rfl | ⟨c, rest, -, he⟩
  · exact hs
  · exact h he (hqueue rest hs)

/-! ## The scanner (R54, R57, R60) -/

theorem queueInv_stopped (h : s.tae = Tae.stopped) : s.QueueInv := by
  unfold QueueInv
  rw [h]
  exact ⟨List.nodup_nil, by decide, by decide⟩

theorem tap_stopped (h : s.tae = Tae.stopped) (v : Tap) : s.tap v = TapRecord.empty := by
  simp [tap, h, Tae.stopped]

theorem censusInv_stopped (h : s.tae = Tae.stopped) : s.CensusInv := by
  intro v
  rw [tap_stopped h]
  exact ⟨by decide, List.Pairwise.nil, nofun⟩

theorem queueInv_of_effect {c : Instr} (h : Effect c s t) : s.QueueInv → t.QueueInv :=
  kept_of_effect h Keeps.queue (fun _ _ h => h) (fun _ h => h) (fun _ _ => queueInv_stopped rfl)
    fun _ => queueInv_stopped rfl

theorem censusInv_of_effect {c : Instr} (h : Effect c s t) : s.CensusInv → t.CensusInv :=
  kept_of_effect h Keeps.census (fun _ _ h => h) (fun _ h => h) (fun _ _ => censusInv_stopped rfl)
    fun _ => censusInv_stopped rfl

/-! ## The budgets (R130, R135) -/

theorem budgetInv_withConfig {p : List Byte} (hp : s.part = .unconfigured) (h : s.BudgetInv) :
    (s.withConfig (PartConfig.ofPayload p)).BudgetInv where
  configured := by simp [withConfig]
  length := by
    rintro _ ⟨⟩
    unfold PartConfig.ofPayload configured clamp
    dsimp only
    split <;> omega
  unconfigured := nofun
  frames d w (hw : (s.budget d).window = some w) := by
    rw [h.unconfigured hp d] at hw
    cases hw
  spent d w a (hw : (s.budget d).window = some w) := by
    rw [h.unconfigured hp d] at hw
    cases hw

theorem budgetInv_restarting (hp : s.part = .run) (h : s.BudgetInv) : s.restarting.BudgetInv where
  configured := by
    have hc := h.configured
    simp only [hp, reduceCtorEq, iff_false] at hc
    simpa [restarting, stopScan] using hc
  length := h.length
  unconfigured := nofun
  frames := h.frames
  spent := h.spent

theorem budget_noWindow (h : s.budgets = Vector.replicate 8 Budget.noWindow) (d : Degree) :
    (s.budget d).window = none := by
  simp [budget, h, Budget.noWindow]

/-- With no window the invariant is about the configuration alone. -/
theorem budgetInv_noWindow (h : s.budgets = Vector.replicate 8 Budget.noWindow)
    (hc : s.config = none ↔ s.part = .unconfigured)
    (hl : ∀ cfg, s.config = some cfg → 4 ≤ cfg.window ∧ cfg.window ≤ 64) : s.BudgetInv where
  configured := hc
  length := hl
  unconfigured _ := budget_noWindow h
  frames d w hw := by rw [budget_noWindow h] at hw; cases hw
  spent d w a hw := by rw [budget_noWindow h] at hw; cases hw

theorem budgetInv_of_effect {c : Instr} (h : Effect c s t) : s.BudgetInv → t.BudgetInv := by
  refine kept_of_effect h Keeps.budgets (fun _ => budgetInv_withConfig) budgetInv_restarting
    (fun {s} hp h => budgetInv_noWindow rfl ?_ h.length) fun _ => budgetInv_noWindow rfl ?_ nofun
  · have hc := h.configured
    simp only [hp, reduceCtorEq, iff_false] at hc
    simpa [clearedPart] using hc
  · exact ⟨fun _ => rfl, fun _ => rfl⟩

/-! ## The links (R162, R177) -/

theorem shaped_of_no_command {l : Link} (hc : l.command = none)
    (hs : l.state = .idle ∨ l.state = .absent) (ht : l.timer = none)
    (hm : l.accepted = false ∧ l.retry = false) : l.Shaped := by
  rcases hs with hs | hs <;>
    exact ⟨by simp [hc, hs], by simp [ht, hs], fun _ => hm, by simp [hs]⟩

theorem shaped_clearedLink (l : Link) {st : LinkState} (h : st = .idle ∨ st = .absent) :
    (clearedLink l st).Shaped :=
  shaped_of_no_command rfl h rfl ⟨rfl, rfl⟩


theorem linkInv_withConfig {cfg : PartConfig} (hp : s.part = .unconfigured) (h : s.LinkInv) :
    (s.withConfig cfg).LinkInv := by
  refine ⟨fun d => ?_, nofun⟩
  unfold withConfig
  dsimp only
  have hc := h.2 hp d
  obtain ⟨h1, h2, h3, -⟩ := h.1 d
  have ht : (s.link d).timer = none := by
    by_contra hn
    have := h2.mp (Option.isSome_iff_ne_none.mpr hn)
    have := h1.mpr (this.imp id Or.inl)
    simp [hc] at this
  have hl : ({ s with
      config := some cfg, part := .run
      links := tabulate 8 fun d =>
        { s.link d with state := if cfg.degrees[d].present then .idle else .absent } } : State).link d =
      { s.link d with state := if cfg.degrees[d].present then .idle else .absent } := by simp [link]
  rw [hl]
  exact shaped_of_no_command hc (by dsimp only; split <;> simp) ht (h3 hc)

theorem linkInv_of_effect {c : Instr} (h : Effect c s t) : s.LinkInv → t.LinkInv := by
  refine kept_of_effect h (fun h hs => ⟨fun d => h.links d (hs.1 d), fun hu d => ?_⟩)
    (fun _ => linkInv_withConfig) (fun _ h => ⟨h.1, nofun⟩) (fun _ _ => ⟨fun d => ?_, nofun⟩)
    fun {s} _ => ⟨fun d => ?_, fun _ d => ?_⟩
  · rw [h.part] at hu
    exact h.silent (by rw [hu]; nofun) d (hs.2 hu d)
  · have hl : ∀ s : State, s.clearedPart.link d = clearedLink (s.link d) (s.linkPresence d) := fun s => by
      simp [clearedPart, link]
    rw [hl]
    exact shaped_clearedLink _ (by unfold linkPresence; split <;> simp)
  · have hl : s.resetPart.link d = clearedLink (s.link d) .idle := by simp [resetPart, link]
    rw [hl]
    exact shaped_clearedLink _ (Or.inl rfl)
  · have hl : s.resetPart.link d = clearedLink (s.link d) .idle := by simp [resetPart, link]
    rw [hl]
    rfl

end State

open State

/-- Settles O53: what goes keeps the scanner's lists by the rules of the queue and of the two passes, and
what clears the part leaves them empty. -/
theorem theScannerKeepsItsLists : Obligations.TheScannerKeepsItsLists := fun _ _ h =>
  ⟨kept_of_step (fun _ h => h) queueInv_of_effect h, kept_of_step (fun _ h => h) censusInv_of_effect h⟩

/-- Settles O54: a window starts within its ranges, is only spent, and counts its frames down to 1. -/
theorem budgetsKeepTheirRanges : Obligations.BudgetsKeepTheirRanges := fun _ _ hs h =>
  kept_of_step (fun _ h => ⟨h.configured, h.length, h.unconfigured, h.frames, h.spent⟩)
    budgetInv_of_effect h hs

/-- Settles O55: a link takes a command with its timer running, and command, timer and marks go together. -/
theorem linksKeepTheirShape : Obligations.LinksKeepTheirShape := fun _ _ hs h =>
  kept_of_step (fun _ h => h) linkInv_of_effect h hs

end Sys2Proof.Machine
end

section
/-! SUPPORT. What every command does to the queue, the part state, the configuration, the records and the
change flags. -/

namespace Sys2Proof.Machine

namespace State

variable {s t u : State}

/-! ## The queue, the part state and the configuration -/

theorem pending_of_effect {c : Instr} (h : Effect c s t) : t.pending = s.pending :=
  kept_of_effect (I := fun x => x.pending = s.pending) h (fun h e => h.pending.trans e) (fun _ _ e => e)
    (fun _ e => e) (fun _ e => e) (fun e => e) rfl

theorem part_accepted (s : State) (r : List Byte) : (s.accepted r).part = s.part := rfl

/-- R183: CONFIGURE takes the part to RUN. -/
theorem part_configured (s : State) (cfg : PartConfig) (r : List Byte) :
    ((s.configureWith cfg).accepted r).part = .run :=
  ((goes_configured s cfg).trans (goes_accepted _ r)).part

/-- How the part state and the configuration move (R179, R183, R184). -/
theorem part_and_config_of_effect {c : Instr} (h : Effect c s t) :
    (t.part = s.part ∧ t.config = s.config) ∨ c = .resetPin ∨
      (∃ p, c = .configure p ∧ s.part = .unconfigured ∧ t.part = .run) ∨
      (∃ p, c = .restart p ∧ s.part = .run ∧ t.part ≠ .unconfigured ∧ t.config = s.config) ∨
      (c = .restartComplete ∧ s.part = .restarting ∧ t.part = .run ∧ t.config = s.config) := by
  cases h with
  | goes h => exact Or.inl ⟨h.part, h.config⟩
  | takeEvents r => exact Or.inl ⟨rfl, rfl⟩
  | tickSecond hp => exact Or.inl ⟨(keeps_tickSecond s).part, (keeps_tickSecond s).config⟩
  | opened hp h => exact Or.inl ⟨(keeps_openRecord h).part, (keeps_openRecord h).config⟩
  | adopted hp h =>
    have k := keeps_adoptRecord (s := s.taken) hp h
    exact Or.inl ⟨k.part, k.config⟩
  | freed hp h =>
    have k := keeps_freeSlot (s := s.taken) hp h
    exact Or.inl ⟨k.part, k.config⟩
  | configured r hp ht =>
    rw [ht]
    exact Or.inr (Or.inr (Or.inl ⟨_, rfl, hp, part_configured _ _ _⟩))
  | @restarted p s r u hp h =>
    refine Or.inr (Or.inr (Or.inr (Or.inl ⟨_, rfl, hp, ?_⟩)))
    obtain ⟨-, v, hv, hu⟩ := restartPart_eq_ok h
    have haccepted := goes_accepted u r
    have key : u.part ≠ .unconfigured ∧ u.config = s.config := by
      rcases hu with hu | hu <;> rw [hu]
      · exact ⟨by rw [hv.part]; nofun, hv.config⟩
      · exact ⟨by rw [(goes_returned v).part]; nofun, (goes_returned v).config.trans hv.config⟩
    exact ⟨haccepted.configured key.1, haccepted.config.trans key.2⟩
  | returned hp ht =>
    rw [ht]
    exact Or.inr (Or.inr (Or.inr (Or.inr ⟨rfl, hp, (goes_returned s).part, (goes_returned s).config⟩)))
  | reset => exact Or.inr (Or.inl rfl)

/-! ## An UNCONFIGURED part (R28) -/

theorem Bare.of_outside (h : s.Bare)
    (ht : t = { s with
      part := t.part, timebase := t.timebase, buffer := t.buffer, spiOut := t.spiOut
      pending := t.pending }) : t.Bare := by
  rw [ht]
  exact ⟨h.config, h.mask, h.events, h.contexts, h.keyers, h.tae, h.budgets, h.guards, h.links,
    h.arbiterWaits⟩

/-- With no event class enabled ATTN is low. -/
theorem attnLevel_of_empty_mask (h : s.mask = Classes.empty) : s.attnLevel = false := by
  simp [attnLevel, h, Classes.empty]

theorem Bare.attn (h : s.Bare) : s.events.attn = false := by
  rw [h.events]
  rfl

theorem Bare.taken (h : s.Bare) : s.taken.Bare := by
  have e : s.taken = s := by
    unfold State.taken
    have ha : (if s.buffer = .empty then s.events.attn else s.attnLevel) = s.events.attn := by
      rw [attnLevel_of_empty_mask h.mask, h.attn]
      exact ite_self false
    rw [ha]
  rw [e]
  exact h

theorem Bare.refused (h : s.Bare) (status : Status) : (s.refused status).Bare := h.taken.of_outside rfl

theorem Bare.accepted (h : s.Bare) (r : List Byte) : (s.accepted r).Bare := h.of_outside rfl

theorem Bare.ctx_none (h : s.Bare) (i : Slot) : s.ctx i = none := h.contexts i

theorem Bare.command (h : s.Bare) (d : Degree) : (s.link d).command = none := by rw [h.links d]; rfl

theorem Bare.timer (h : s.Bare) (d : Degree) : (s.link d).timer = none := by rw [h.links d]; rfl

theorem cleared_clearedLink (l : Link) (st : LinkState) : (clearedLink l st).Cleared st := rfl

theorem link_resetPart (s : State) (d : Degree) : s.resetPart.link d = clearedLink (s.link d) .idle := by
  simp [resetPart, link]

theorem bare_resetPart (s : State) : s.resetPart.Bare where
  config := rfl
  mask := rfl
  events := rfl
  contexts i := by simp [resetPart, State.reset, ctx]
  keyers k := by simp [resetPart, State.reset, keyer]
  tae := rfl
  budgets d := by simp [resetPart, State.reset, budget]
  guards d := by simp [resetPart, State.reset, guard]
  links d := by rw [link_resetPart]; exact cleared_clearedLink _ _
  arbiterWaits := rfl

theorem bare_tickMs (h : s.Bare) : s.tickMs.Bare := by
  have hl : ∀ d, s.tickMs.link d = s.link d := fun d => by
    rw [show s.tickMs.link d = s.countTimer d by simp [tickMs, link]]
    unfold countTimer
    dsimp only
    rw [h.timer d, Option.map_none, ← h.timer d]
  exact ⟨h.config, h.mask, h.events, h.contexts, h.keyers, h.tae, h.budgets, h.guards,
    fun d => by rw [hl]; exact h.links d, h.arbiterWaits⟩

theorem bare_readResponse (h : s.Bare) (count : Nat) : (s.readResponse count).Bare := by
  unfold readResponse
  split
  · exact h.of_outside rfl
  · exact h.of_outside rfl
  · split
    · have he : Events.clear = { s.events with attn := s.attnLevel } := by
        rw [attnLevel_of_empty_mask h.mask, h.events]
        rfl
      exact ⟨h.config, h.mask, he.symm, h.contexts, h.keyers, h.tae, h.budgets, h.guards, h.links,
        h.arbiterWaits⟩
    · exact h.of_outside rfl

/-- A frame that an UNCONFIGURED part does not take. -/
theorem answer_running_of_unconfigured (hp : s.part = .unconfigured) (length : Nat) (p : List Byte)
    (body : State → Except Status (List Byte × State)) :
    s.answer .running length p body = s.refused .notConfigured := by
  have hpart : s.taken.part = .unconfigured := hp
  simp only [answer, discardResponse_eq_taken, hpart]
  rfl

theorem bare_answer {admission : Admission} {length : Nat} {p : List Byte}
    {body : State → Except Status (List Byte × State)} (h : s.Bare)
    (hbody : ∀ r u, body s.taken = .ok (r, u) → u.Bare) : (s.answer admission length p body).Bare := by
  rcases answer_cases s admission length p body with ⟨status, e⟩ | ⟨r, u, -, -, hu, e⟩ <;> rw [e]
  · exact h.refused status
  · exact (hbody r u hu).accepted r

/-- R28, R70, R130, R177, R179: an UNCONFIGURED part stays bare, unless CONFIGURE takes it to RUN. -/
theorem bare_of_exec {c : Instr} (hp : s.part = .unconfigured) (h : s.Bare) (ht : exec c s = .next t)
    (hu : t.part = .unconfigured) : t.Bare := by
  have hrun : (s.part == PartState.run) = false := by rw [hp]; rfl
  have hnot : s.part ≠ .run := by rw [hp]; nofun
  have hrefused {length : Nat} {p : List Byte} {body : State → Except Status (List Byte × State)} :
      (s.answer .running length p body).Bare := by
    rw [answer_running_of_unconfigured hp]
    exact h.refused _
  cases c with
  | configure p =>
    cases ht
    rcases answer_cases s .configuring 130 p (configurePart p) with ⟨status, e⟩ | ⟨r, u, -, -, hb, e⟩
    · rw [e]
      exact h.refused status
    · rw [e] at hu
      unfold configurePart at hb
      dsimp only at hb
      split at hb <;> cases hb
      rw [part_configured] at hu
      cases hu
  | openContext p | adopt p | cancel p | free p | readContext p | readCensus p | setAttnMask p
  | forceGuard p | linkRetry p | restart p =>
    cases ht
    exact hrefused
  | readDegree p =>
    cases ht
    exact bare_answer h fun r u hu => eq_of_readBody (Or.inr (Or.inr hu)) ▸ h.taken
  | takeEvents p =>
    cases ht
    refine bare_answer h fun r u hu => ?_
    cases hu
    have k := h.taken
    exact ⟨k.config, k.mask, by
      show ({ Events.clear with attn := s.taken.events.attn } : Events) = Events.clear
      rw [k.attn]
      rfl, k.contexts, k.keyers, k.tae, k.budgets, k.guards, k.links, k.arbiterWaits⟩
  | unknownCommand code p =>
    cases ht
    rw [discardResponse_eq_taken]
    exact h.refused _
  | writeIncomplete b | replyDiscarded d f =>
    cases ht
    exact h
  | responseRead n =>
    cases ht
    exact bare_readResponse h n
  | responseReady =>
    cases ht
    unfold buildResponse
    split
    · exact h.of_outside rfl
    · exact h
    · exact h
  | resetPin =>
    cases ht
    exact bare_resetPart s
  | restartComplete =>
    cases ht
    rw [if_neg fun e => by rw [hp] at e; cases e.1]
    exact h
  | msTick =>
    cases ht
    exact bare_tickMs h
  | secondTick =>
    cases ht
    unfold tickSecond
    rw [if_neg hnot]
    split
    · exact h.of_outside rfl
    · exact h
  | frameTick =>
    cases ht
    unfold tickFrame
    rw [if_neg hnot]
    split
    · exact h.of_outside rfl
    · exact h
  | responseTimeout d =>
    cases ht
    rw [h.timer d, if_neg nofun]
    exact h
  | deadlineExpiry i =>
    cases ht
    simpa [deadlineMet, hrun] using h
  | lingerExpiry k =>
    cases ht
    simpa [lingerMet, hrun] using h
  | windowBoundary d =>
    cases ht
    simpa [boundaryMet, hrun] using h
  | visitEnd reading moment =>
    cases ht
    simpa [endedVisit, hnot] using h
  | scanStart =>
    cases ht
    simpa [scanDue, hrun] using h
  | wordBoundary k =>
    cases ht
    simpa [crossWord, h.keyers k, Keyer.free, Keyer.sending] using h
  | symbolAdvance k =>
    cases ht
    simpa [advanceSymbol, h.keyers k, Keyer.free] using h
  | linkAccept d n =>
    cases ht
    simpa [takeAccept, Link.matches, h.command d] using h
  | linkDone d n v =>
    cases ht
    simpa [takeDone, h.command d] using h
  | linkRefuse d n r =>
    cases ht
    simpa [takeRefuse, h.command d] using h

theorem bareInv_of_step (h : step s = .next t) (hs : s.BareInv) : t.BareInv := by
  intro hu
  unfold step at h
  split at h
  · cases h
    exact hs hu
  · rename_i c rest hq
    have heff := effect_of_exec h
    by_cases hp : s.part = .unconfigured
    · exact bare_of_exec (s := { s with pending := rest }) hp ((hs hp).of_outside rfl) h hu
    · rcases part_and_config_of_effect heff with ⟨e, -⟩ | e | ⟨-, -, hp', -⟩ | ⟨-, -, -, e, -⟩ | ⟨-, -, e, -⟩
      · exact absurd (e.symm.trans hu) hp
      · rw [e] at h
        cases h
        exact bare_resetPart _
      · exact absurd hp' hp
      · exact absurd hu e
      · rw [e] at hu
        cases hu

/-! ## Records -/

theorem ctx_tickSecond (hp : s.part = .run) (i : Slot) : s.tickSecond.ctx i = s.countElapsed i := by
  unfold tickSecond
  rw [if_pos hp]
  simp [ctx]

theorem evolves_of_contexts (h : t.contexts = s.contexts) (i : Slot) :
    sameSlot Context.Evolves (s.ctx i) (t.ctx i) := by
  rw [show t.ctx i = s.ctx i by simp only [ctx, h]]
  exact sameSlot_refl Context.Evolves.refl _

/-! ## Change flags (R12) -/

/-- R12: the rule of `State.Marks` at one slot. -/
def MarksAt (s t : State) (i : Slot) : Prop :=
  s.part ≠ .restarting → (s.events.change[i] = true → t.events.change[i] = true) ∧
    ((t.ctx i).map Context.shown = (s.ctx i).map Context.shown ∨ t.events.change[i] = true)

theorem Marks.at (h : s.Marks t) (i : Slot) : s.MarksAt t i := fun hp => h hp i

theorem MarksAt.trans {i : Slot} (h1 : s.MarksAt t i) (h2 : t.MarksAt u i) (hp : t.part = s.part) :
    s.MarksAt u i := by
  intro hr
  obtain ⟨k1, c1⟩ := h1 hr
  obtain ⟨k2, c2⟩ := h2 (hp ▸ hr)
  refine ⟨fun h => k2 (k1 h), ?_⟩
  rcases c2 with e | e
  · rcases c1 with e1 | e1
    · exact Or.inl (e.trans e1)
    · exact Or.inr (k2 e1)
  · exact Or.inr e

theorem marks_modCtx (s : State) (i : Slot) (f : Context → Context) : s.Marks (s.modCtx i f) := by
  unfold modCtx
  split
  · exact Marks.refl s
  · exact marks_putRecord s i _

theorem marks_unbind (s : State) (i : Slot) : s.Marks (s.unbind i) := by
  unfold unbind
  split
  · exact Marks.refl s
  · exact marks_modCtx s _ _

/-- R12, R13: the discard of a record clears the change flag of its own slot alone. -/
theorem marksAt_discardRecord (s : State) {i j : Slot} (h : j ≠ i) : s.MarksAt (s.discardRecord i) j := by
  unfold discardRecord
  split
  · exact (Marks.refl s).at j
  · have h1 := (marks_unbind s i).trans (goes_forgetEntries _ i).marks (keeps_unbind s i).part
    refine (h1.at j).trans (fun _ => ?_) ((keeps_unbind s i).trans (goes_forgetEntries _ i).toKeeps).part
    have hv : (i : Nat) ≠ j := fun e => h (Fin.ext e).symm
    rw [ctx_clearChange, ctx_setRecord, if_neg (Ne.symm h)]
    refine ⟨fun e => ?_, Or.inl rfl⟩
    simpa [clearChange, hv] using e

theorem marks_bindPartner (s : State) (i : Slot) (p : Option Slot) : s.Marks (s.bindPartner i p) := by
  unfold bindPartner
  split
  · exact Marks.refl s
  · exact marks_modCtx s _ _

theorem marks_place (s : State) (i : Slot) (c : Context) : s.Marks (s.place i c) :=
  (marks_bindPartner s i _).trans (marks_putRecord _ i _) (keeps_bindPartner s i _).part

theorem ctx_place_self (s : State) (i : Slot) (c : Context) : (s.place i c).ctx i = some c := by
  unfold place
  rw [ctx_putRecord, if_pos rfl]

theorem marks_bindKeyer (s : State) (i : Slot) (k : KeyerNo) : s.Marks (s.bindKeyer i k) := by
  have h0 : s.Marks (s.modKeyer k fun x => { x with bound := some i }) := marks_of_same rfl rfl
  have h1 := h0.trans (marks_modCtx _ i fun c => { c with keyer := some k }) rfl
  unfold bindKeyer
  dsimp only
  split
  · exact h1
  · exact h1.trans (reacts_startKeyer _ i).marks (keeps_modCtx _ i _).part

theorem marks_freeRecord (s : State) (i : Slot) : s.Marks (s.freeRecord i) := by
  unfold freeRecord
  split
  · exact Marks.refl s
  · have k1 := (reacts_releaseKeyer s i).goes.toKeeps
    have k2 := k1.trans (keeps_unbind _ i)
    have k3 := k2.trans (goes_forgetEntries _ i).toKeeps
    have h1 := (((reacts_releaseKeyer s i).marks.trans (marks_unbind _ i) k1.part).trans
      (goes_forgetEntries _ i).marks k2.part).trans (marks_putRecord _ i none) k3.part
    dsimp only
    split
    · exact h1.trans (calm_evaluateGroupOf _ _).marks (k3.trans (keeps_putRecord _ i none)).part
    · exact h1

/-- R12: a slot that an OPEN or ADOPT takes has its change flag set, and so has every other that shows a
change. -/
theorem flagged_of_placed {i : Slot} {c : Context} (hs : s.part ≠ .restarting)
    (hu : Marks ((s.discardRecord i).place i c) u) (hrec : (u.ctx i).isSome) (j : Slot)
    (hne : (u.ctx j).map Context.shown ≠ (s.ctx j).map Context.shown) : u.events.change[j] = true := by
  have kd := keeps_discardRecord s i
  have hm := (marks_place (s.discardRecord i) i c).trans hu (keeps_place _ i c).part
  by_cases h : j = i
  · subst h
    refine ((hm (by rwa [kd.part]) j).2).resolve_left fun e => ?_
    rw [ctx_discardRecord, if_pos rfl] at e
    cases hc : u.ctx j with
    | none => simp [hc] at hrec
    | some x => simp [hc] at e
  · exact (((marksAt_discardRecord s h).trans (hm.at j) kd.part) hs).2.resolve_left hne

theorem isSome_of_sameSlot {R : Context → Context → Prop} {o p : Option Context} (h : sameSlot R o p)
    (ho : o.isSome = true) : p.isSome = true := by
  cases o <;> cases p <;> simp [sameSlot] at h ho ⊢

theorem flagged_of_opened {p r : List Byte} (h : openRecord p s = .ok (r, u)) (hs : s.part ≠ .restarting)
    (j : Slot) (hne : (u.ctx j).map Context.shown ≠ (s.ctx j).map Context.shown) :
    u.events.change[j] = true := by
  obtain ⟨i, c, -, -, -, ⟨-, rfl⟩ | ⟨-, k, -, rfl⟩⟩ := openRecord_eq_ok h
  · exact flagged_of_placed hs (Marks.refl _) (by rw [ctx_place_self]; rfl) j hne
  · refine flagged_of_placed hs (marks_bindKeyer _ i k) ?_ j hne
    have hself : (((s.discardRecord i).place i
        { c with answerHold := (s.discardRecord i).openHold c }).modKeyer k
          fun x => { x with bound := some i }).ctx i =
        some { c with answerHold := (s.discardRecord i).openHold c } := ctx_place_self _ i _
    have hmod := ctx_modCtx_self _ hself fun c => { c with keyer := some k }
    unfold bindKeyer
    dsimp only
    split
    · rw [hmod]
      rfl
    · exact isSome_of_sameSlot ((reacts_startKeyer _ i).records i) (by rw [hmod]; rfl)

theorem flagged_of_adopted {p r : List Byte} (h : adoptRecord p s = .ok (r, u))
    (hs : s.part ≠ .restarting) (j : Slot)
    (hne : (u.ctx j).map Context.shown ≠ (s.ctx j).map Context.shown) : u.events.change[j] = true := by
  obtain ⟨i, c, -, -, -, rfl⟩ := adoptRecord_eq_ok h
  have hd := (calm_postRead ((s.discardRecord i).place i (adoptedForm c)) i).decides.trans
    (decides_arbitrate _)
  exact flagged_of_placed hs hd.marks
    (isSome_of_sameSlot (hd.records i) (by rw [ctx_place_self]; rfl)) j hne

theorem shown_tickSecond (hp : s.part = .run) (i : Slot) :
    (s.tickSecond.ctx i).map Context.shown = (s.ctx i).map Context.shown := by
  rw [ctx_tickSecond hp]
  unfold countElapsed
  cases s.ctx i with
  | none => rfl
  | some c =>
    simp only [Option.map_some]
    split <;> rfl

end State

open State

/-- Settles O1: the two equations of `step`. -/
theorem stepRunsTheFrontCommand : Obligations.StepRunsTheFrontCommand := by
  refine ⟨fun c rest s h => ?_, fun s h => ?_⟩ <;> unfold step <;> rw [h]

/-- Settles O2: every command answers a next state, and none touches the queue. -/
theorem everyCommandRuns : Obligations.EveryCommandRuns := fun c s =>
  let ⟨t, ht, he⟩ := exec_effect c s
  ⟨t, ht, pending_of_effect he⟩

/-- Settles O58: every command named goes, but for those that leave the records alone. -/
theorem recordsEvolve : Obligations.RecordsEvolve := by
  intro c s t h hopen hadopt hfree hrestart hreset hcomplete hsecond
  cases effect_of_exec h with
  | goes h => exact h.records
  | takeEvents r => exact evolves_of_contexts rfl
  | configured r hp ht =>
    rw [ht]
    exact ((goes_configured s.taken _).trans (goes_accepted _ r)).records
  | tickSecond hp => exact absurd rfl hsecond
  | opened => exact absurd rfl (hopen _)
  | adopted => exact absurd rfl (hadopt _)
  | freed => exact absurd rfl (hfree _)
  | restarted => exact absurd rfl (hrestart _)
  | returned => exact absurd rfl hcomplete
  | reset => exact absurd rfl hreset

/-- Settles O59: records are written through `State.putRecord`, which marks a slot that shows a change; the
commands that write otherwise show none. -/
theorem changesAreFlagged : Obligations.ChangesAreFlagged := by
  intro c s t hexec hp hreset hrestart i hne
  cases effect_of_exec hexec with
  | goes h => exact (h.marks hp i).2.resolve_left hne
  | takeEvents r => exact absurd rfl hne
  | configured r hu ht =>
    rw [ht] at hne ⊢
    exact (((goes_configured s.taken _).trans (goes_accepted _ r)).marks nofun i).2.resolve_left hne
  | tickSecond hr => exact absurd (shown_tickSecond hr i) hne
  | opened _ h => exact flagged_of_opened (s := s.taken) h hp i hne
  | adopted _ h => exact flagged_of_adopted (s := s.taken) h hp i hne
  | freed hr h =>
    obtain ⟨j, c, -, -, -, rfl⟩ := freeSlot_eq_ok h
    exact (((marks_freeRecord s.taken j).trans (decides_arbitrate _).marks
      (keeps_freeRecord s.taken j).part) hp i).2.resolve_left hne
  | restarted => exact absurd rfl (hrestart _)
  | returned hr _ => exact absurd hr hp
  | reset => exact absurd rfl hreset

/-- Settles O60: the part state and the configuration move by CONFIGURE, RESTART, its completion and the
RESET pin alone. -/
theorem theConfigurationStays : Obligations.TheConfigurationStays := by
  intro c s t h
  rcases part_and_config_of_effect (effect_of_exec h) with
    ⟨hp, hc⟩ | rfl | ⟨p, rfl, hu, ht⟩ | ⟨p, rfl, hu, ht, hc⟩ | ⟨rfl, hu, ht, hc⟩
  · refine ⟨fun _ hu => ⟨hc, by rwa [hp]⟩, fun _ _ => hc, fun _ _ hu => hp.trans hu,
      fun _ hr => Or.inl (hp.trans hr), fun hr ht => ?_⟩
    rw [hp, hr] at ht
    cases ht
  · refine ⟨fun e => absurd rfl e, fun e => absurd rfl e, fun e => absurd rfl e, fun _ _ => Or.inr rfl,
      fun _ ht => ?_⟩
    cases h
    cases ht
  · exact ⟨fun _ e => absurd hu e, fun _ e => absurd rfl (e p), fun _ e => absurd rfl (e p),
      fun _ _ => Or.inl ht, fun e => by rw [hu] at e; cases e⟩
  · exact ⟨fun _ _ => ⟨hc, ht⟩, fun _ _ => hc, fun _ _ e => by (rw [hu] at e; cases e),
      fun e => absurd rfl (e p), fun e => by rw [hu] at e; cases e⟩
  · exact ⟨fun _ _ => ⟨hc, by rw [ht]; nofun⟩, fun _ _ => hc, fun _ _ e => by (rw [hu] at e; cases e),
      fun _ _ => Or.inl ht, fun _ _ => rfl⟩

end Sys2Proof.Machine
end

section
/-! SUPPORT. The claims, bindings and fields of records: what the checks of OPEN and ADOPT give (R14 to R18),
and that records which come, go or evolve keep ports, tones, partners and keyers apart. -/

namespace Sys2Proof.Machine

/-! ## The new record (R14 to R16) -/

/-- R19: a record as OPEN writes it, before its partner, answer hold and keyer. -/
def Context.opened (c : Context) : Context :=
  { c with
    state := .armed, partner := none, answerHold := if c.role = .answer then some .held else none
    elapsed := 0, frozen := false, atten := .blocked, keyer := none, lastPower := none, step := none
    flags := CondFlags.clear, switchReason := none, cause := none, outcome := none
    portClosed := none, drift := none, heard := false, groupEntry := false, freshHeld := false
    doneAt := none, inLoss := false, mustBlock := false }

namespace State

variable {s t u : State} {f : OpenFields}

theorem opened_of_newRecord {c : Context} (h : s.newRecord f = some c) : c = c.opened := by
  simp only [newRecord, Option.bind_eq_some_iff, Option.map_eq_some_iff] at h
  obtain ⟨role, -, tone, -, channel, -, priority, -, ⟨ing, eg, group⟩, -, rfl⟩ := h
  rfl

/-- R16: the partner check, as the words give it. -/
theorem partnerOf_eq_some_iff {c : Context} {q : Option Slot} :
    s.partnerOf c f = some q ↔ s.ValidPartner f c.role c.tone q := by
  unfold partnerOf
  split
  · rename_i hf
    have hv := optionalField_eq_none_iff.mp hf
    cases q with
    | none => simp [ValidPartner, hv]
    | some p =>
      have hp := p.isLt
      simp only [ValidPartner, hv]
      constructor
      · intro h
        split at h <;> cases h
      · rintro ⟨h, -⟩
        omega
  · rename_i v hf
    obtain ⟨rfl, hv⟩ := optionalField_eq_some_iff.mp hf
    cases q with
    | none =>
      simp only [ValidPartner, hv, false_and, iff_false, Option.bind_eq_some_iff]
      rintro ⟨p, -, x, -, h⟩
      split at h <;> cases h
    | some p =>
      simp only [ValidPartner, Option.bind_eq_some_iff, index?_eq_some_iff,
        Option.ite_none_right_eq_some, Bool.and_eq_true, bne_iff_ne, beq_iff_eq, Option.isNone_iff_eq_none]
      have hroles : ∀ a b : Role, rolesPair a b = true ↔
          ((a = .origin ∨ a = .answer) ∧ b = .tail) ∨ (a = .tail ∧ (b = .origin ∨ b = .answer)) := by
        intro a b
        cases a <;> cases b <;> decide
      constructor
      · rintro ⟨p', hp, x, hx, ⟨⟨⟨⟨hr, hl⟩, hw⟩, ht⟩, hn⟩, e⟩
        cases e
        exact ⟨hp, x, hx, hl, hw, ht, hn, (hroles _ _).mp hr⟩
      · rintro ⟨hp, x, hx, hl, hw, ht, hn, hr⟩
        exact ⟨p, hp, x, hx, ⟨⟨⟨⟨(hroles _ _).mpr hr, hl⟩, hw⟩, ht⟩, hn⟩, rfl⟩

theorem portTaken_eq_false_iff {c : Context} : s.portTaken c = false ↔ s.PortFree c := by
  simp only [portTaken, PortFree, List.any_eq_false, mem_allSlots, forall_const]
  refine forall_congr' fun j => ?_
  cases s.ctx j <;> simp

theorem toneTaken_eq_false_iff {c : Context} : s.toneTaken c = false ↔ s.ToneFree c := by
  simp only [toneTaken, ToneFree, List.any_eq_false, mem_allSlots, forall_const]
  refine forall_congr' fun j => ?_
  cases s.ctx j <;> simp

/-- R13, checks 3 to 6: what a record that is claimed has passed. -/
theorem claimRecord_eq_ok {c : Context} (h : s.claimRecord f = .ok c) :
    (∃ n q, s.newRecord f = some n ∧ c = { n with partner := q }) ∧
      s.ValidPartner f c.role c.tone c.partner ∧ s.PortFree c ∧ s.ToneFree c := by
  unfold claimRecord at h
  split at h
  · cases h
  · rename_i n hn
    split at h
    · cases h
    · rename_i q hq
      split at h
      · cases h
      · rename_i hp
        split at h <;> cases h
        rename_i ht
        exact ⟨⟨n, q, hn, rfl⟩, partnerOf_eq_some_iff.mp hq,
          portTaken_eq_false_iff.mp (Bool.not_eq_true _ ▸ hp),
          toneTaken_eq_false_iff.mp (Bool.not_eq_true _ ▸ ht)⟩

/-! ## The tables of records after a record comes or goes -/

theorem ctx_bindPartner (s : State) (i j : Slot) (p : Option Slot) :
    (s.bindPartner i p).ctx j = (s.ctx j).map fun x => x.boundTo j p i := by
  unfold bindPartner
  cases p with
  | none => simp [Context.boundTo]
  | some p =>
    dsimp only
    by_cases h : j = p
    · subst h
      cases hj : s.ctx j with
      | none => rw [modCtx_of_none hj, hj]; rfl
      | some x => rw [ctx_modCtx_self s hj]; simp [Context.boundTo]
    · have hne : ¬ p = j := Ne.symm h
      rw [ctx_modCtx_of_ne s h]
      simp [Context.boundTo, hne]

theorem ctx_place (s : State) (i j : Slot) (c : Context) :
    (s.place i c).ctx j =
      if i = j then some c else (s.ctx j).map fun x => x.boundTo j c.partner i := by
  unfold place
  rw [ctx_putRecord, ctx_bindPartner]

/-- R24: the slot is IDLE, and the partner of the record that went has lost its reference. -/
theorem ctx_removed (s : State) (i j : Slot) :
    ((((s.unbind i).forgetEntries i).putRecord i none)).ctx j =
      if i = j then none else (s.ctx j).map fun x => x.leftBy j i ((s.ctx i).bind (·.partner)) := by
  rw [ctx_putRecord, ctx_forgetEntries, ctx_unbind]

/-! ## Ports and tones (R15) -/

theorem port_of_identity {c d : Context} (h : d.identity = c.identity) : d.port = c.port := by
  simp only [Context.identity, Identity.mk.injEq] at h
  obtain ⟨h1, h2, h3, h4, h5, -⟩ := h
  simp only [Context.port, Context.link, Context.side, Context.isTail, Context.inward, Context.out,
    h1, h3, h4, h5]
  rfl

theorem toneClaim_of_identity {c d : Context} (h : d.identity = c.identity) :
    d.toneClaim = c.toneClaim := by
  simp only [Context.identity, Identity.mk.injEq] at h
  obtain ⟨h1, h2, h3, h4, h5, -⟩ := h
  simp only [Context.toneClaim, Context.watchTap, Context.head, Context.inward, Context.out, h1, h2, h4, h5]
  rfl

theorem isTail_of_identity {c d : Context} (h : d.identity = c.identity) : d.isTail = c.isTail := by
  have hr : d.role = c.role := congrArg Identity.role h
  simp only [Context.isTail, hr]

/-- Every record of the one state is a record of the other, with its identity, and live only if it was. -/
def Descends (s t : State) : Prop :=
  ∀ j d, t.ctx j = some d → ∃ c, s.ctx j = some c ∧ d.identity = c.identity ∧
    (d.live = true → c.live = true)

theorem ClaimsInv.of_descends (h : s.Descends t) (hs : s.ClaimsInv) : t.ClaimsInv := by
  intro i j c x hc hx hlc hlx hij
  obtain ⟨c', hc', ec, lc⟩ := h i c hc
  obtain ⟨x', hx', ex, lx⟩ := h j x hx
  rw [port_of_identity ec, port_of_identity ex, toneClaim_of_identity ec, toneClaim_of_identity ex]
  exact hs i j c' x' hc' hx' (lc hlc) (lx hlx) hij

theorem exists_of_sameSlot {R : Context → Context → Prop} {o : Option Context} {d : Context}
    (h : sameSlot R o (some d)) : ∃ c, o = some c ∧ R c d := by
  cases o with
  | none => exact h.elim
  | some c => exact ⟨c, rfl, h⟩

theorem descends_of_evolves (h : ∀ i, sameSlot Context.Evolves (s.ctx i) (t.ctx i)) : s.Descends t := by
  intro j d hd
  obtain ⟨c, hc, e⟩ := exists_of_sameSlot (hd ▸ h j)
  refine ⟨c, hc, e.identity, fun hl => ?_⟩
  simp only [Context.live, bne_iff_ne, ne_eq] at hl ⊢
  exact fun hce => hl (e.ended hce).1

theorem leftBy_of (x : Context) (j i : Slot) (p : Option Slot) :
    (x.leftBy j i p).identity = x.identity ∧ (x.leftBy j i p).live = x.live ∧
      (x.leftBy j i p).keyer = x.keyer ∧ (x.FieldsPresent → (x.leftBy j i p).FieldsPresent) := by
  unfold Context.leftBy
  split
  · exact ⟨rfl, rfl, rfl, fun ⟨h1, h2, h3, h4⟩ => ⟨h1, h2, h3, h4⟩⟩
  · exact ⟨rfl, rfl, rfl, id⟩

theorem boundTo_of (x : Context) (j : Slot) (p : Option Slot) (i : Slot) :
    (x.boundTo j p i).identity = x.identity ∧ (x.boundTo j p i).live = x.live ∧
      (x.boundTo j p i).keyer = x.keyer ∧ (x.FieldsPresent → (x.boundTo j p i).FieldsPresent) := by
  unfold Context.boundTo
  split
  · exact ⟨rfl, rfl, rfl, fun ⟨h1, h2, h3, h4⟩ => ⟨h1, h2, h3, h4⟩⟩
  · exact ⟨rfl, rfl, rfl, id⟩

/-- The table after the record of a slot has gone (R13, R24). -/
def Removes (s t : State) (i : Slot) : Prop :=
  ∀ j, t.ctx j = if i = j then none
    else (s.ctx j).map fun x => x.leftBy j i ((s.ctx i).bind (·.partner))

/-- A record left after a removal. -/
theorem Removes.record {i j : Slot} {d : Context} (h : s.Removes t i) (hd : t.ctx j = some d) :
    j ≠ i ∧ ∃ c, s.ctx j = some c ∧ d = c.leftBy j i ((s.ctx i).bind (·.partner)) := by
  rw [h j] at hd
  split at hd
  · cases hd
  · rename_i hij
    obtain ⟨c, hc, rfl⟩ := Option.map_eq_some_iff.mp hd
    exact ⟨Ne.symm hij, c, hc, rfl⟩

theorem Removes.descends {i : Slot} (h : s.Removes t i) : s.Descends t := by
  intro j d hd
  obtain ⟨-, c, hc, rfl⟩ := h.record hd
  obtain ⟨hi, hl, -⟩ := leftBy_of c j i ((s.ctx i).bind (·.partner))
  exact ⟨c, hc, hi, fun k => hl ▸ k⟩

theorem removes_discardRecord (s : State) (i : Slot) : s.Removes (s.discardRecord i) i :=
  ctx_discardRecord s i

theorem removes_removed (s : State) (i : Slot) :
    s.Removes (((s.unbind i).forgetEntries i).putRecord i none) i := ctx_removed s i

/-- R15: a record whose port and tone are free joins the table. -/
theorem claimsInv_place {i : Slot} {c : Context} (hp : s.PortFree c) (ht : s.ToneFree c)
    (hs : s.ClaimsInv) : (s.place i c).ClaimsInv := by
  have old {j : Slot} {x : Context} (hj : i ≠ j) (hx : (s.place i c).ctx j = some x) :
      ∃ y, s.ctx j = some y ∧ x.identity = y.identity ∧ x.live = y.live := by
    rw [ctx_place, if_neg hj] at hx
    obtain ⟨y, hy, rfl⟩ := Option.map_eq_some_iff.mp hx
    obtain ⟨hi, hl, -⟩ := boundTo_of y j c.partner i
    exact ⟨y, hy, hi, hl⟩
  have new {x : Context} (hx : (s.place i c).ctx i = some x) : x = c := by
    rw [ctx_place_self] at hx
    exact (Option.some.inj hx).symm
  have apart {j : Slot} {x : Context} (hj : i ≠ j) (hx : (s.place i c).ctx j = some x)
      (hl : x.live = true) : x.port ≠ c.port ∧ x.toneClaim ≠ c.toneClaim := by
    obtain ⟨y, hy, hi, hly⟩ := old hj hx
    rw [port_of_identity hi, toneClaim_of_identity hi]
    exact ⟨hp j y hy (hly ▸ hl), ht j y hy (hly ▸ hl)⟩
  intro j k x y hx hy hlx hly hjk
  by_cases hj : i = j
  · subst hj
    rw [new hx]
    obtain ⟨h1, h2⟩ := apart hjk hy hly
    exact ⟨h1.symm, h2.symm⟩
  · by_cases hk : i = k
    · subst hk
      rw [new hy]
      exact apart hj hx hlx
    · obtain ⟨x', hx', ix, lx⟩ := old hj hx
      obtain ⟨y', hy', iy, ly⟩ := old hk hy
      rw [port_of_identity ix, port_of_identity iy, toneClaim_of_identity ix, toneClaim_of_identity iy]
      exact hs j k x' y' hx' hy' (lx ▸ hlx) (ly ▸ hly) hjk

/-! ## Partners (R16, R17) -/

/-- Two records of a slot are the same in what they are and in the partner they name. -/
def samePair (c d : Context) : Prop := d.identity = c.identity ∧ d.partner = c.partner

theorem partnersInv_of_samePair (h : ∀ i, sameSlot samePair (s.ctx i) (t.ctx i))
    (hs : s.PartnersInv) : t.PartnersInv := by
  intro i d p hd hp
  obtain ⟨c, hc, hci, hcp⟩ := exists_of_sameSlot (hd ▸ h i)
  obtain ⟨x, hx, hxp, htone, htail⟩ := hs i c p hc (hcp ▸ hp)
  have hsame := h p
  rw [hx] at hsame
  cases hy : t.ctx p with
  | none => rw [hy] at hsame; exact hsame.elim
  | some y =>
    rw [hy] at hsame
    have ⟨hyi, hyp⟩ : samePair x y := hsame
    refine ⟨y, rfl, hyp.trans hxp, ?_, ?_⟩
    · exact (congrArg Identity.tone hyi).trans (htone.trans (congrArg Identity.tone hci).symm)
    · rw [isTail_of_identity hyi, isTail_of_identity hci, htail]

theorem sameSlot_imp {R Q : Context → Context → Prop} {o o' : Option Context}
    (hRQ : ∀ c d, R c d → Q c d) (h : sameSlot R o o') : sameSlot Q o o' := by
  cases o <;> cases o'
  case some.some c d => exact hRQ c d h
  all_goals exact h

/-- R17: the survivor of a pair names no partner, so no binding to the slot is left. -/
theorem Removes.partnersInv {i : Slot} (h : s.Removes t i) (hs : s.PartnersInv) : t.PartnersInv := by
  intro j d q hd hq
  obtain ⟨hji, x, hx, rfl⟩ := h.record hd
  have hkeep : ¬ ((s.ctx i).bind (·.partner) = some j ∧ x.partner = some i) := by
    intro hand
    rw [Context.leftBy, if_pos hand] at hq
    cases hq
  have hleft : x.leftBy j i ((s.ctx i).bind (·.partner)) = x := if_neg hkeep
  rw [hleft] at hq ⊢
  obtain ⟨y, hy, hyp, htone, htail⟩ := hs j x q hx hq
  have hqi : i ≠ q := by
    rintro rfl
    exact hkeep ⟨by rw [hy]; exact hyp, hq⟩
  have hyleft : y.leftBy q i ((s.ctx i).bind (·.partner)) = y := by
    refine if_neg fun hand => ?_
    rw [hyp] at hand
    exact hji (Option.some.inj hand.2)
  refine ⟨y, ?_, hyp, htone, htail⟩
  rw [h q, if_neg hqi, hy, Option.map_some, hyleft]

/-- R16: the new record and the partner it names, which named none, name each other. -/
theorem partnersInv_place {i : Slot} {c : Context} (hi : s.ctx i = none)
    (hv : s.ValidPartner f c.role c.tone c.partner) (hs : s.PartnersInv) :
    (s.place i c).PartnersInv := by
  intro j d q hd hq
  by_cases hij : i = j
  · subst hij
    rw [ctx_place_self] at hd
    cases hd
    rw [hq] at hv
    obtain ⟨-, x, hx, -, -, htone, -, hroles⟩ := hv
    have hiq : i ≠ q := by
      rintro rfl
      rw [hi] at hx
      cases hx
    refine ⟨{ x with partner := some i }, ?_, rfl, htone, ?_⟩
    · rw [ctx_place, if_neg hiq, hx, Option.map_some, Context.boundTo, if_pos hq]
    · show (x.role == .tail) = !(c.role == .tail)
      rcases hroles with ⟨h | h, h'⟩ | ⟨h, h' | h'⟩ <;> rw [h, h'] <;> rfl
  · rw [ctx_place, if_neg hij] at hd
    obtain ⟨x, hx, rfl⟩ := Option.map_eq_some_iff.mp hd
    by_cases hcj : c.partner = some j
    · rw [hcj] at hv
      obtain ⟨-, y, hy, -, -, htone, -, hroles⟩ := hv
      rw [hx] at hy
      cases hy
      rw [Context.boundTo, if_pos hcj] at hq ⊢
      cases hq
      refine ⟨c, ctx_place_self s i c, hcj, htone.symm, ?_⟩
      show (c.role == .tail) = !(x.role == .tail)
      rcases hroles with ⟨h | h, h'⟩ | ⟨h, h' | h'⟩ <;> rw [h, h'] <;> rfl
    · rw [Context.boundTo, if_neg hcj] at hq ⊢
      obtain ⟨y, hy, hyp, htone, htail⟩ := hs j x q hx hq
      have hiq : i ≠ q := by
        rintro rfl
        rw [hi] at hy
        cases hy
      have hcq : ¬ c.partner = some q := by
        intro e
        rw [e] at hv
        obtain ⟨-, z, hz, -, -, -, hn, -⟩ := hv
        rw [hy] at hz
        cases hz
        rw [hn] at hyp
        cases hyp
      refine ⟨y, ?_, hyp, htone, htail⟩
      rw [ctx_place, if_neg hiq, hy, Option.map_some, Context.boundTo, if_neg hcq]

/-! ## Keyers (R18, R38, R45) -/

theorem keyers_modCtx (s : State) (i : Slot) (g : Context → Context) :
    (s.modCtx i g).keyers = s.keyers := by
  unfold modCtx
  split
  · rfl
  · exact keyers_putRecord s i _

theorem keyers_unbind (s : State) (i : Slot) : (s.unbind i).keyers = s.keyers := by
  unfold unbind
  split
  · rfl
  · exact keyers_modCtx s _ _

theorem keyers_forgetEntries (s : State) (i : Slot) : (s.forgetEntries i).keyers = s.keyers := by
  unfold forgetEntries
  split <;> rfl

theorem keyers_discardRecord (s : State) (i : Slot) : (s.discardRecord i).keyers = s.keyers := by
  unfold discardRecord
  split
  · rfl
  · exact (keyers_forgetEntries _ i).trans (keyers_unbind s i)

theorem keyers_bindPartner (s : State) (i : Slot) (p : Option Slot) :
    (s.bindPartner i p).keyers = s.keyers := by
  unfold bindPartner
  split
  · rfl
  · exact keyers_modCtx s _ _

theorem keyers_place (s : State) (i : Slot) (c : Context) : (s.place i c).keyers = s.keyers :=
  (keyers_putRecord _ i _).trans (keyers_bindPartner s i _)

theorem keyer_of_keyers (h : t.keyers = s.keyers) (k : KeyerNo) : t.keyer k = s.keyer k := by
  simp only [keyer, h]

/-- R45: a record that names no keyer goes. -/
theorem Removes.keyersInv {i : Slot} (h : s.Removes t i) (hk : t.keyers = s.keyers)
    (hn : ∀ c, s.ctx i = some c → c.keyer = none) (hs : s.KeyersInv) : t.KeyersInv := by
  refine ⟨fun j d k hd hdk => ?_, fun k j hb => ?_⟩
  · obtain ⟨-, c, hc, rfl⟩ := h.record hd
    obtain ⟨-, hl, hck, -⟩ := leftBy_of c j i ((s.ctx i).bind (·.partner))
    rw [keyer_of_keyers hk, hl]
    exact hs.named j c k hc (hck ▸ hdk)
  · rw [keyer_of_keyers hk] at hb
    obtain ⟨c, hc, hck⟩ := hs.bound k j hb
    have hij : i ≠ j := by
      rintro rfl
      rw [hn c hc] at hck
      cases hck
    refine ⟨_, by rw [h j, if_neg hij, hc]; rfl, ?_⟩
    exact (leftBy_of c j i _).2.2.1.trans hck

/-- R18: a record that names no keyer comes. -/
theorem keyersInv_place {i : Slot} {c : Context} (hi : s.ctx i = none) (hc : c.keyer = none)
    (hs : s.KeyersInv) : (s.place i c).KeyersInv := by
  refine ⟨fun j d k hd hdk => ?_, fun k j hb => ?_⟩
  · rw [ctx_place] at hd
    split at hd
    · cases hd
      rw [hc] at hdk
      cases hdk
    · obtain ⟨x, hx, rfl⟩ := Option.map_eq_some_iff.mp hd
      obtain ⟨-, hl, hxk, -⟩ := boundTo_of x j c.partner i
      rw [keyer_of_keyers (keyers_place s i c), hl]
      exact hs.named j x k hx (hxk ▸ hdk)
  · rw [keyer_of_keyers (keyers_place s i c)] at hb
    obtain ⟨x, hx, hxk⟩ := hs.bound k j hb
    have hij : i ≠ j := by
      rintro rfl
      rw [hi] at hx
      cases hx
    refine ⟨_, by rw [ctx_place, if_neg hij, hx]; rfl, ?_⟩
    exact (boundTo_of x j c.partner i).2.2.1.trans hxk

/-- The keyer bound, before it starts to send (R18, R38). -/
def tieKeyer (i : Slot) (k : KeyerNo) (s : State) : State :=
  (s.modKeyer k fun x => { x with bound := some i }).modCtx i fun c => { c with keyer := some k }

theorem bindKeyer_eq (s : State) (i : Slot) (k : KeyerNo) : s.bindKeyer i k =
    if ((s.tieKeyer i k).ctx i).any (·.answerHold == some .held) then s.tieKeyer i k
    else (s.tieKeyer i k).startKeyer i := rfl

theorem ctx_tieKeyer {i : Slot} {c : Context} (k : KeyerNo) (hc : s.ctx i = some c) (j : Slot) :
    (s.tieKeyer i k).ctx j = if i = j then some { c with keyer := some k } else s.ctx j := by
  unfold tieKeyer
  by_cases h : i = j
  · subst h
    rw [if_pos rfl]
    exact ctx_modCtx_self (s.modKeyer k fun x => { x with bound := some i }) hc _
  · rw [if_neg h]
    exact ctx_modCtx_of_ne _ (Ne.symm h) _

theorem keyer_tieKeyer (s : State) (i : Slot) (k j : KeyerNo) :
    (s.tieKeyer i k).keyer j = if k = j then { s.keyer k with bound := some i } else s.keyer j := by
  unfold tieKeyer
  rw [keyer_of_keyers (keyers_modCtx _ i _)]
  exact keyer_setKeyer s k j _

/-- R18, R38: a free keyer and a live record that names none are bound to each other. -/
theorem keyersInv_tieKeyer {i : Slot} {c : Context} {k : KeyerNo} (hc : s.ctx i = some c)
    (hn : c.keyer = none) (hl : c.live = true) (hk : (s.keyer k).bound = none) (hs : s.KeyersInv) :
    (s.tieKeyer i k).KeyersInv := by
  refine ⟨fun j d m hd hdm => ?_, fun m j hb => ?_⟩
  · rw [ctx_tieKeyer k hc] at hd
    rw [keyer_tieKeyer]
    split at hd
    · rename_i e
      subst e
      cases hd
      cases hdm
      rw [if_pos rfl]
      exact ⟨rfl, hl⟩
    · obtain ⟨hb, hlive⟩ := hs.named j d m hd hdm
      have hkm : k ≠ m := by
        rintro rfl
        rw [hk] at hb
        cases hb
      rw [if_neg hkm]
      exact ⟨hb, hlive⟩
  · rw [keyer_tieKeyer] at hb
    rw [ctx_tieKeyer k hc]
    split at hb
    · rename_i e
      subst e
      cases hb
      exact ⟨_, if_pos rfl, rfl⟩
    · obtain ⟨x, hx, hxm⟩ := hs.bound m j hb
      have hij : i ≠ j := by
        rintro rfl
        rw [hc] at hx
        cases hx
        rw [hn] at hxm
        cases hxm
      exact ⟨x, by rw [if_neg hij]; exact hx, hxm⟩

theorem goes_startOrNot (s : State) (i : Slot) (b : Bool) :
    s.Goes (if b then s else s.startKeyer i) := by
  split
  · exact Goes.refl s
  · exact (reacts_startKeyer s i).goes

theorem freeKeyer_unbound {k : KeyerNo} (h : s.freeKeyer? = some k) : (s.keyer k).bound = none := by
  simpa using List.find?_some h

/-- R45: a slot that OPEN or ADOPT takes holds no keyer. -/
theorem keyer_none_of_openSlot {v : Nat} {i : Slot} (hs : s.KeyersInv) (h : s.openSlot v = .ok i)
    (c : Context) (hc : s.ctx i = some c) : c.keyer = none := by
  unfold openSlot at h
  split at h
  · cases h
  · split at h <;> cases h
    rename_i hl
    rw [hc] at hl
    by_contra hk
    obtain ⟨k, hk⟩ := Option.ne_none_iff_exists'.mp hk
    exact hl (hs.named i c k hc hk).2

/-! ## What the records of a new table are -/

/-- The records of a state have the fields of their states (R2, R79), and the invariants of claims,
partners and keyers stand. -/
structure TableKept (s t : State) : Prop where
  claims : s.ClaimsInv → t.ClaimsInv
  partners : s.PartnersInv → t.PartnersInv
  keyers : s.KeyersInv → t.KeyersInv
  fields : s.FieldsInv → t.FieldsInv

theorem TableKept.trans (h1 : s.TableKept t) (h2 : t.TableKept u) : s.TableKept u :=
  ⟨fun h => h2.claims (h1.claims h), fun h => h2.partners (h1.partners h),
    fun h => h2.keyers (h1.keyers h), fun h => h2.fields (h1.fields h)⟩

theorem Goes.tableKept (h : s.Goes t) : s.TableKept t where
  claims := ClaimsInv.of_descends (descends_of_evolves h.records)
  partners := partnersInv_of_samePair fun i =>
    sameSlot_imp (fun _ _ e => ⟨e.identity, e.partner⟩) (h.records i)
  keyers := h.bank
  fields hs i d hd := by
    obtain ⟨c, hc, e⟩ := exists_of_sameSlot (hd ▸ h.records i)
    exact e.fields (hs i c hc)

theorem tableKept_of_empty (hc : ∀ i, t.ctx i = none) (hk : ∀ k, t.keyer k = Keyer.free) :
    s.TableKept t where
  claims _ i j c x h := by rw [hc] at h; cases h
  partners _ i c p h := by rw [hc] at h; cases h
  keyers _ := ⟨fun i c k h => by simp [hc] at h, fun k i h => by simp [hk, Keyer.free] at h⟩
  fields _ i c h := by rw [hc] at h; cases h

theorem Removes.fieldsInv {i : Slot} (h : s.Removes t i) (hs : s.FieldsInv) : t.FieldsInv := by
  intro j d hd
  obtain ⟨-, c, hc, rfl⟩ := h.record hd
  exact (leftBy_of c j i _).2.2.2 (hs j c hc)

theorem fieldsInv_place {i : Slot} {c : Context} (hc : c.FieldsPresent) (hs : s.FieldsInv) :
    (s.place i c).FieldsInv := by
  intro j d hd
  rw [ctx_place] at hd
  split at hd
  · cases hd
    exact hc
  · obtain ⟨x, hx, rfl⟩ := Option.map_eq_some_iff.mp hd
    exact (boundTo_of x j c.partner i).2.2.2 (hs j x hx)

/-- A new record, in the state that OPEN or ADOPT gives it. -/
theorem fieldsPresent_of_new {c : Context} (hs : c.state = .armed ∨ c.state = .adopting)
    (hd : c.drift = none) (hw : c.cause = none) (ho : c.outcome = none) (hp : c.portClosed = none) :
    c.FieldsPresent := by
  rcases hs with hs | hs <;> exact ⟨by simp [hd, hs], by simp [hw, hs], by simp [ho, hs], by simp [hp, hs]⟩

/-- A record that is claimed and written, with an answer hold, attenuation and state of OPEN or ADOPT. -/
theorem tableKept_place {v : Nat} {i : Slot} {n c : Context} (hslot : s.openSlot v = .ok i)
    (hclaim : (s.discardRecord i).claimRecord f = .ok n) (hst : c.state = .armed ∨ c.state = .adopting)
    (hc : c = { n with state := c.state, atten := c.atten, answerHold := c.answerHold }) :
    s.TableKept ((s.discardRecord i).place i c) := by
  obtain ⟨⟨m, q, hm, rfl⟩, hv, hport, htone⟩ := claimRecord_eq_ok hclaim
  have ho := opened_of_newRecord hm
  have hi : (s.discardRecord i).ctx i = none := by rw [ctx_discardRecord, if_pos rfl]
  have hrem := removes_discardRecord s i
  have hid : c.identity = Context.identity { m with partner := q } := by rw [hc]; rfl
  have hkeyer : c.keyer = none := by rw [hc, ho]; rfl
  have hrole : c.role = m.role := by rw [hc]
  have htone' : c.tone = m.tone := by rw [hc]
  have hpart : c.partner = q := by rw [hc]
  refine ⟨fun h => ?_, fun h => ?_, fun h => ?_, fun h => ?_⟩
  · refine claimsInv_place ?_ ?_ (h.of_descends hrem.descends)
    · intro j x hx hl
      rw [port_of_identity hid]
      exact hport j x hx hl
    · intro j x hx hl
      rw [toneClaim_of_identity hid]
      exact htone j x hx hl
  · exact partnersInv_place hi (by rw [hrole, htone', hpart]; exact hv) (hrem.partnersInv h)
  · exact keyersInv_place hi hkeyer
      (hrem.keyersInv (keyers_discardRecord s i) (keyer_none_of_openSlot h hslot) h)
  · refine fieldsInv_place (fieldsPresent_of_new hst ?_ ?_ ?_ ?_) (hrem.fieldsInv h) <;>
      rw [hc, ho] <;> rfl

/-- A tied record differs in the keyer it names only. -/
theorem tieKeyer_record {i j : Slot} {c d : Context} {k : KeyerNo} (hc : s.ctx i = some c)
    (hd : (s.tieKeyer i k).ctx j = some d) : ∃ x, s.ctx j = some x ∧ d = { x with keyer := d.keyer } := by
  rw [ctx_tieKeyer k hc] at hd
  split at hd
  · rename_i e
    subst e
    cases hd
    exact ⟨c, hc, rfl⟩
  · exact ⟨d, hd, rfl⟩

theorem samePair_tieKeyer {i : Slot} {c : Context} {k : KeyerNo} (hc : s.ctx i = some c) (j : Slot) :
    sameSlot samePair (s.ctx j) ((s.tieKeyer i k).ctx j) := by
  rw [ctx_tieKeyer k hc]
  split
  · rename_i e
    rw [← e, hc]
    exact ⟨rfl, rfl⟩
  · cases s.ctx j
    · trivial
    · exact ⟨rfl, rfl⟩

/-- R18, R38: a free keyer is given to a live record that names none. -/
theorem tableKept_bindKeyer {i : Slot} {c : Context} {k : KeyerNo} (hc : s.ctx i = some c)
    (hn : c.keyer = none) (hl : c.live = true) (hk : (s.keyer k).bound = none) :
    s.TableKept (s.bindKeyer i k) := by
  have tied : s.TableKept (s.tieKeyer i k) := by
    refine ⟨ClaimsInv.of_descends fun j d hd => ?_, partnersInv_of_samePair (samePair_tieKeyer hc),
      keyersInv_tieKeyer hc hn hl hk, fun hs j d hd => ?_⟩
    · obtain ⟨x, hx, e⟩ := tieKeyer_record hc hd
      rw [e]
      exact ⟨x, hx, rfl, id⟩
    · obtain ⟨x, hx, e⟩ := tieKeyer_record hc hd
      obtain ⟨h1, h2, h3, h4⟩ := hs j x hx
      rw [e]
      exact ⟨h1, h2, h3, h4⟩
  rw [bindKeyer_eq]
  exact tied.trans (goes_startOrNot _ i _).tableKept

theorem tableKept_openRecord {p r : List Byte} (h : openRecord p s = .ok (r, u)) : s.TableKept u := by
  obtain ⟨i, c, hslot, hclaim, -, hu⟩ := openRecord_eq_ok h
  obtain ⟨⟨m, q, hm, hc⟩, -⟩ := claimRecord_eq_ok hclaim
  have ho := opened_of_newRecord hm
  have hst : c.state = .armed := by rw [hc, ho]; rfl
  have hplace : s.TableKept ((s.discardRecord i).place i
      { c with answerHold := (s.discardRecord i).openHold c }) :=
    tableKept_place hslot hclaim (Or.inl hst) rfl
  rcases hu with ⟨-, rfl⟩ | ⟨-, k, hk, rfl⟩
  · exact hplace
  · refine hplace.trans (tableKept_bindKeyer (ctx_place_self _ i _) ?_ ?_ ?_)
    · rw [hc, ho]; rfl
    · show (c.state != .ended) = true
      rw [hst]
      rfl
    · rw [keyer_of_keyers (keyers_place _ i _)]
      exact freeKeyer_unbound hk

theorem tableKept_adoptRecord {p r : List Byte} (hp : s.part = .run)
    (h : adoptRecord p s = .ok (r, u)) : s.TableKept u := by
  obtain ⟨i, c, hslot, hclaim, -, rfl⟩ := adoptRecord_eq_ok h
  have hplace : s.TableKept ((s.discardRecord i).place i (adoptedForm c)) :=
    tableKept_place hslot hclaim (Or.inr rfl) <| by
      obtain ⟨⟨m, q, hm, hc⟩, -⟩ := claimRecord_eq_ok hclaim
      have ho := opened_of_newRecord hm
      rw [hc, ho]
      rfl
  have hrun : ((s.discardRecord i).place i (adoptedForm c)).part = .run :=
    ((keeps_discardRecord s i).trans (keeps_place _ i _)).part.trans hp
  have hread := (calm_postRead ((s.discardRecord i).place i (adoptedForm c)) i).goes
  exact hplace.trans (hread.trans ((decides_arbitrate _).goes (hread.run hrun))).tableKept

theorem tableKept_freeRecord (s : State) (i : Slot) : s.TableKept (s.freeRecord i) := by
  unfold freeRecord
  split
  · exact (Goes.refl s).tableKept
  · rename_i c _
    have hrem := removes_removed (s.releaseKeyer i) i
    have hkeyers : ((((s.releaseKeyer i).unbind i).forgetEntries i).putRecord i none).keyers =
        (s.releaseKeyer i).keyers :=
      (keyers_putRecord _ i none).trans ((keyers_forgetEntries _ i).trans (keyers_unbind _ i))
    have removed : (s.releaseKeyer i).TableKept
        ((((s.releaseKeyer i).unbind i).forgetEntries i).putRecord i none) :=
      ⟨ClaimsInv.of_descends hrem.descends, hrem.partnersInv,
        hrem.keyersInv hkeyers fun c hc => keyer_releaseKeyer s hc, hrem.fieldsInv⟩
    refine ((reacts_releaseKeyer s i).goes.tableKept.trans removed).trans ?_
    dsimp only
    split
    · exact (calm_evaluateGroupOf _ c).goes.tableKept
    · exact (Goes.refl _).tableKept

theorem tableKept_freeSlot {p r : List Byte} (hp : s.part = .run) (h : freeSlot p s = .ok (r, u)) :
    s.TableKept u := by
  obtain ⟨i, c, -, -, -, rfl⟩ := freeSlot_eq_ok h
  exact (tableKept_freeRecord s i).trans
    ((decides_arbitrate _).goes ((keeps_freeRecord s i).part.trans hp)).tableKept

/-- The records differ in what no invariant of the table speaks of, and every keyer is bound as it was. -/
theorem tableKept_of_fields {R : Context → Context → Prop}
    (hR : ∀ c d, R c d → samePair c d ∧ d.live = c.live ∧ d.keyer = c.keyer ∧
      (c.FieldsPresent → d.FieldsPresent))
    (hc : ∀ i, sameSlot R (s.ctx i) (t.ctx i)) (hk : ∀ k, (t.keyer k).bound = (s.keyer k).bound) :
    s.TableKept t where
  claims := ClaimsInv.of_descends fun j d hd => by
    obtain ⟨c, hc, e⟩ := exists_of_sameSlot (hd ▸ hc j)
    obtain ⟨⟨hi, -⟩, hl, -⟩ := hR c d e
    exact ⟨c, hc, hi, fun h => hl ▸ h⟩
  partners := partnersInv_of_samePair fun i => sameSlot_imp (fun c d e => (hR c d e).1) (hc i)
  keyers hs := by
    refine ⟨fun i d k hd hdk => ?_, fun k i hb => ?_⟩
    · obtain ⟨c, hc, e⟩ := exists_of_sameSlot (hd ▸ hc i)
      obtain ⟨-, hl, hck, -⟩ := hR c d e
      rw [hk, hl]
      exact hs.named i c k hc (hck ▸ hdk)
    · obtain ⟨c, hci, hck⟩ := hs.bound k i (hk k ▸ hb)
      have hsame := hc i
      rw [hci] at hsame
      cases hd : t.ctx i with
      | none => rw [hd] at hsame; exact hsame.elim
      | some d =>
        rw [hd] at hsame
        exact ⟨d, rfl, (hR c d hsame).2.2.1.trans hck⟩
  fields hs i d hd := by
    obtain ⟨c, hci, e⟩ := exists_of_sameSlot (hd ▸ hc i)
    exact (hR c d e).2.2.2 (hs i c hci)

theorem tableKept_of_same (hc : t.contexts = s.contexts) (hk : t.keyers = s.keyers) : s.TableKept t :=
  tableKept_of_fields (R := Eq)
    (fun c d (e : c = d) => e ▸ ⟨⟨rfl, rfl⟩, rfl, rfl, id⟩)
    (fun i => by simpa only [ctx, hc] using sameSlot_refl (R := Eq) (fun _ => rfl) _)
    fun k => by rw [keyer_of_keyers hk]

/-- A record that differs in what it counts of the time. -/
def sameButElapsed (c d : Context) : Prop := d = { c with elapsed := d.elapsed }

theorem tableKept_tickSecond (hp : s.part = .run) : s.TableKept s.tickSecond := by
  refine tableKept_of_fields (R := sameButElapsed) (fun c d e => ?_) (fun i => ?_) fun k => ?_
  · rw [e]
    exact ⟨⟨rfl, rfl⟩, rfl, rfl, fun ⟨h1, h2, h3, h4⟩ => ⟨h1, h2, h3, h4⟩⟩
  · rw [ctx_tickSecond hp]
    unfold countElapsed
    cases s.ctx i with
    | none => trivial
    | some c =>
      simp only [Option.map_some, sameSlot, sameButElapsed]
      split <;> rfl
  · have hk : s.tickSecond.keyer k = s.countLinger k := by
      simp [tickSecond, hp, keyer]
    rw [hk]
    unfold countLinger
    dsimp only
    split <;> rfl

theorem tableKept_returnToRun (s t : State) : s.TableKept t.returnToRun :=
  (tableKept_of_empty (t := t.clearedPart) (fun i => by simp [clearedPart, ctx])
    fun k => by simp [clearedPart, keyer]).trans (goes_returned t).tableKept

theorem tableKept_of_effect {c : Instr} (h : Effect c s t) : s.TableKept t := by
  have htaken := (goes_taken s).tableKept
  cases h with
  | goes h => exact h.tableKept
  | takeEvents r => exact tableKept_of_same rfl rfl
  | tickSecond hp => exact tableKept_tickSecond hp
  | opened hp h => exact (htaken.trans (tableKept_openRecord h)).trans (goes_accepted _ _).tableKept
  | adopted hp h =>
    exact (htaken.trans (tableKept_adoptRecord (s := s.taken) hp h)).trans (goes_accepted _ _).tableKept
  | freed hp h =>
    exact (htaken.trans (tableKept_freeSlot (s := s.taken) hp h)).trans (goes_accepted _ _).tableKept
  | configured r hp ht =>
    rw [ht]
    have hcfg (cfg : PartConfig) : s.taken.TableKept (s.taken.withConfig cfg) :=
      tableKept_of_same rfl rfl
    exact (htaken.trans (hcfg _)).trans ((goes_configured _ _).trans (goes_accepted _ r)).tableKept
  | restarted hp h =>
    obtain ⟨-, v, hv, hu⟩ := restartPart_eq_ok h
    refine TableKept.trans ?_ (goes_accepted _ _).tableKept
    rcases hu with hu | hu <;> rw [hu]
    · have hstop : s.taken.TableKept s.taken.restarting := tableKept_of_same rfl rfl
      exact (htaken.trans hstop).trans hv.tableKept
    · exact tableKept_returnToRun s v
  | returned hp ht =>
    rw [ht]
    exact tableKept_returnToRun s s
  | reset =>
    refine tableKept_of_empty (fun i => ?_) fun k => ?_
    · simp [resetPart, State.reset, ctx]
    · simp [resetPart, State.reset, keyer]

theorem tableKept_of_step (h : step s = .next t) : s.TableKept t := by
  rcases effect_of_step h with rfl | ⟨c, rest, -, he⟩
  · exact (Goes.refl _).tableKept
  · have hqueue : s.TableKept { s with pending := rest } := tableKept_of_same rfl rfl
    exact hqueue.trans (tableKept_of_effect he)

end State

open State

/-- Settles O56: a new record takes what no live record claims, a record that goes leaves no reference to
it, and every other command writes neither claims nor bindings. -/
theorem claimsAndBindingsStand : Obligations.ClaimsAndBindingsStand := fun _ _ h =>
  let kept := tableKept_of_step h
  ⟨kept.claims, kept.partners, kept.keyers⟩

/-- Settles O57: a record is written with the fields of its state, and the commands that an UNCONFIGURED part
takes leave it bare. -/
theorem fieldsAndTheBarePartStand : Obligations.FieldsAndTheBarePartStand := fun _ _ h =>
  ⟨(tableKept_of_step h).fields, bareInv_of_step h⟩

end Sys2Proof.Machine
end

section
/-! SUPPORT. Command frames by their checks (R179, R181, R182), the configuration's values (R183), the response
buffer (R181), the 1 ms tick (R180), the reset state, and the replies of a link (R169 to R171). -/

namespace Sys2Proof.Machine

namespace State

variable {s t : State}

/-! ## A command frame by its checks -/

section Frame

variable {admission : Admission} {length : Nat} {p r : List Byte}
  {body : State → Except Status (List Byte × State)} {status : Status}

/-- R179: the part state turns the frame away. -/
theorem answer_of_refusal (h : admission.refusal s.part = some status) :
    s.answer admission length p body = s.refused status := by
  have hpart : admission.refusal s.taken.part = some status := h
  simp only [answer, discardResponse_eq_taken, hpart]
  rfl

/-- R182: the frame has the wrong length. -/
theorem answer_of_length (hadm : admission.refusal s.part = none) (hlen : p.length ≠ length) :
    s.answer admission length p body = s.refused .badField := by
  have hpart : admission.refusal s.taken.part = none := hadm
  simp only [answer, discardResponse_eq_taken, hpart, hlen, if_false]
  rfl

theorem answer_of_body_ok (hadm : admission.refusal s.part = none) (hlen : p.length = length)
    (hbody : body s.taken = .ok (r, t)) : s.answer admission length p body = t.accepted r := by
  have hpart : admission.refusal s.taken.part = none := hadm
  simp only [answer, discardResponse_eq_taken, hpart, hlen, hbody, if_true]
  rfl

end Frame

theorem running_refusal_of_run (h : s.part = .run) : Admission.running.refusal s.part = none := by
  rw [h]
  rfl

/-! ## CONFIGURE (R183) -/

theorem configured_eq (lo hi default v : Nat) :
    configured lo hi default v = configValue lo hi default v := by
  unfold configured configValue clamp absent16
  split
  · rfl
  · omega

theorem degrees_ofPayload (p : List Byte) (d : Degree) :
    (PartConfig.ofPayload p).degrees[d] = DegreeConfig.ofPayload p d := by
  simp [PartConfig.ofPayload]

theorem configurePart_of_absent {p : List Byte} (h : ∀ d : Degree, fieldAt p (7 * d.val) = 0) (s : State) :
    configurePart p s = .error .badField := by
  have hnone : (allDegrees.any fun d => (PartConfig.ofPayload p).degrees[d].present) = false := by
    rw [List.any_eq_false]
    intro d _
    rw [degrees_ofPayload]
    simp [DegreeConfig.ofPayload, h d]
  unfold configurePart
  dsimp only
  rw [hnone]
  rfl

/-! ## The response buffer (R181) -/

theorem u16_eq (n : Nat) : u16 n = [BitVec.ofNat 8 (n / 256), BitVec.ofNat 8 n] := rfl

theorem take_one (b : Byte) (n : Nat) : [b].take n = if n = 0 then [] else [b] := by
  cases n <;> simp

/-! ## The reset state -/

theorem ctx_reset (i : Slot) : State.reset.ctx i = none := by simp [State.reset, ctx]

theorem keyer_reset (k : KeyerNo) : State.reset.keyer k = Keyer.free := by simp [State.reset, keyer]

theorem link_reset (d : Degree) : State.reset.link d = Link.reset := by simp [State.reset, link]

theorem bare_reset : State.reset.Bare where
  config := rfl
  mask := rfl
  events := rfl
  contexts := ctx_reset
  keyers := keyer_reset
  tae := rfl
  budgets d := by simp [State.reset, budget]
  guards d := by simp [State.reset, guard]
  links d := by rw [link_reset]; rfl
  arbiterWaits := rfl

/-! ## The replies of a link (R169 to R171) -/

theorem matches_eq_false {d : Degree} {n : Byte} (h : (s.link d).command = none ∨ (s.link d).number ≠ n) :
    (s.link d).matches n = false := by
  unfold Link.matches
  rcases h with h | h
  · simp [h]
  · simp [h]

theorem matches_eq_true {d : Degree} {n : Byte} (hc : (s.link d).command ≠ none)
    (hn : (s.link d).number = n) : (s.link d).matches n = true := by
  unfold Link.matches
  simp [hn, Option.isSome_iff_ne_none, hc]

theorem takeAccept_of_not_matches {d : Degree} {n : Byte} (h : (s.link d).matches n = false) :
    s.takeAccept d n = s := by
  unfold takeAccept
  simp [h]

theorem takeDone_of_not_matches {d : Degree} {n v : Byte} (h : (s.link d).matches n = false) :
    s.takeDone d n v = s := by
  unfold takeDone
  split
  · rfl
  · split
    · rfl
    · simp [h]

theorem takeRefuse_of_not_matches {d : Degree} {n v : Byte} (h : (s.link d).matches n = false) :
    s.takeRefuse d n v = s := by
  unfold takeRefuse
  split
  · rfl
  · simp [h]

theorem takeAccept_of_matches {d : Degree} {n : Byte} (h : (s.link d).matches n = true) :
    s.takeAccept d n = s.modLink d fun l => { l with accepted := true } := by
  unfold takeAccept
  simp [h]

end State

open State

/-- Settles O13: the readers of a value clamp it, and a configuration without a degree fails the body's own
check. -/
theorem configureClampsItsValues : Obligations.ConfigureClampsItsValues := by
  refine ⟨fun p d => ?_, fun p => ?_, fun p s hp hlen hd => ?_⟩
  · rw [degrees_ofPayload]
    simp only [DegreeConfig.ofPayload, configured_eq, Nat.add_zero]
    simp [bne]
    rfl
  · simp only [PartConfig.ofPayload, configured_eq, Nat.add_zero]
  · have hadm : Admission.configuring.refusal s.part = none := by rw [hp]; rfl
    show Host.Outcome.next _ = _
    rw [answer_of_body_error hadm hlen (configurePart_of_absent hd _)]

/-- Settles O27: the buffer by its three forms. -/
theorem theResponseBufferIsBuiltAndRead : Obligations.TheResponseBufferIsBuiltAndRead := by
  refine ⟨fun s status payload h => ?_, fun s n h => ?_, fun s n status payload h => ?_,
    fun s n frame h => ⟨fun hn => ?_, fun hn => ?_⟩⟩
  · show Host.Outcome.next s.buildResponse = _
    simp only [buildResponse, h, responseFrame, u16_eq]
    rfl
  · show Host.Outcome.next (s.readResponse n) = _
    simp only [readResponse, h, take_one]
  · show Host.Outcome.next (s.readResponse n) = _
    simp only [readResponse, h, take_one]
  · show Host.Outcome.next (s.readResponse n) = _
    simp only [readResponse, h, if_neg (Nat.not_le.mpr hn)]
  · show Host.Outcome.next (s.readResponse n) = _
    simp only [readResponse, h, if_pos hn]
    rfl

/-- Settles O33: the reset state has no record, keyer, window, visit or command. -/
theorem resetMeetsTheInvariants : Obligations.ResetMeetsTheInvariants := by
  have noRecord {i : Slot} {c : Context} (h : State.reset.ctx i = some c) : False := by
    rw [ctx_reset] at h
    cases h
  refine ⟨bare_reset, rfl, rfl, rfl, queueInv_stopped rfl, censusInv_stopped rfl,
    budgetInv_noWindow rfl (by decide) nofun, ⟨fun d => ?_, fun _ d => ?_⟩,
    fun _ _ _ _ h => (noRecord h).elim, fun _ _ _ h => (noRecord h).elim,
    ⟨fun _ _ _ h => (noRecord h).elim, fun k i h => ?_⟩, fun _ _ h => (noRecord h).elim,
    fun _ => bare_reset⟩
  · rw [link_reset]
    exact shaped_of_no_command rfl (Or.inl rfl) rfl ⟨rfl, rfl⟩
  · rw [link_reset]
    rfl
  · rw [keyer_reset] at h
    cases h

/-- Settles O34: the count, its remainders and the timers. -/
theorem millisecondTickCounts : Obligations.MillisecondTickCounts := by
  intro s
  refine ⟨s.tickMs, rfl, rfl, rfl, ?_, ?_, fun d => ?_⟩
  · simp [tickMs]
  · simp [tickMs]
  · simp [tickMs, countTimer, link]

/-- Settles O45: a reply without a matching command leaves the state, and a matched ACCEPT sets its mark. -/
theorem repliesThatDoNotMatchAreDiscarded : Obligations.RepliesThatDoNotMatchAreDiscarded := by
  refine ⟨fun _ _ => rfl, fun _ _ _ => rfl, fun s d n value => ⟨fun h => ?_, fun hc hn => ?_⟩⟩
  · have hm := matches_eq_false h
    exact ⟨congrArg Host.Outcome.next (takeAccept_of_not_matches hm),
      congrArg Host.Outcome.next (takeDone_of_not_matches hm),
      congrArg Host.Outcome.next (takeRefuse_of_not_matches hm)⟩
  · refine ⟨s.modLink d fun l => { l with accepted := true },
      congrArg Host.Outcome.next (takeAccept_of_matches (matches_eq_true hc hn)), rfl, ?_, fun e he => ?_⟩
    · exact link_setLink_self s d _
    · exact (link_setLink s d e _).trans (if_neg (Ne.symm he))

/-- Settles O47: the entry's kind, and the record of its slot. -/
theorem entriesChangeTheExpectedPower : Obligations.EntriesChangeTheExpectedPower := by
  intro s e
  refine ⟨fun read => ?_, fun h => ?_, fun i h hc => ?_, fun i c h hc => ⟨fun hr => ?_, fun hr => ?_⟩⟩
  · unfold CommandEntry.written
    cases e.kind <;> simp
  · simp [entryChange, h]
  · simp [entryChange, h, hc]
  · simp [entryChange, h, hc, Context.isTail, hr]
  · have ht : c.isTail = false := by simpa [Context.isTail] using hr
    simp only [entryChange, h, Option.bind_some, hc, ht]
    refine ⟨fun hk => ?_, fun hk hd => ?_, fun hk hd => ?_, fun hk => ?_, fun hk => ?_, fun hk => ?_⟩
    · simp [hk]
    · rcases hk with hk | hk <;> simp [hk, hd]
    · simp [hk, hd]
    · simp [hk]
    · simp [hk]
    · simp [hk]

end Sys2Proof.Machine
end

section
/-! SUPPORT. The charges over the step table (R116, R122, R125 to R127), the answer of a budget (R134 to R137),
and the symbols of a tone word (R190). -/

namespace Sys2Proof.Machine

/-! ## The step table and the charges -/

theorem stepG_lt_stepG {s s' : Nat} (h : s < s') (h' : s' ≤ 20) : stepG s < stepG s' := by
  have table : ∀ j < 21, ∀ i < j, stepG i < stepG j := by decide
  exact table s' (by omega) s h

/-- R116: 4096 + g is 4096 · 10^(s/100) rounded to the nearest. -/
theorem stepQ_rounds {s : Nat} (h : s ≤ 20) :
    (2 * stepQ s - 1) ^ 100 ≤ 8192 ^ 100 * 10 ^ s ∧ 8192 ^ 100 * 10 ^ s < (2 * stepQ s + 1) ^ 100 := by
  have table : ∀ s < 21, (2 * stepQ s - 1) ^ 100 ≤ 8192 ^ 100 * 10 ^ s ∧
      8192 ^ 100 * 10 ^ s < (2 * stepQ s + 1) ^ 100 := by decide
  exact table s (by omega)

/-- A share g / (a + g) of a power does not fall as g rises. -/
theorem share_le_share {p a g g' : Nat} (ha : 0 < a) (h : g ≤ g') :
    p * g / (a + g) ≤ p * g' / (a + g') := by
  rw [Nat.le_div_iff_mul_le (by omega)]
  have hq : p * g / (a + g) * (a + g) ≤ p * g := Nat.div_mul_le_self _ _
  have hqp : p * g / (a + g) ≤ p := by
    refine Nat.div_le_of_le_mul ?_
    rw [mul_comm]
    exact Nat.mul_le_mul_right p (by omega)
  obtain ⟨r, hr⟩ := Nat.exists_eq_add_of_le hqp
  generalize p * g / (a + g) = q at hq hr
  subst hr
  have hrg : r * g ≤ r * g' := Nat.mul_le_mul_left r h
  have hqa : q * a ≤ r * g := by
    have := hq
    rw [mul_add, add_mul] at this
    omega
  calc q * (a + g') = q * a + q * g' := mul_add q a g'
    _ ≤ r * g' + q * g' := by omega
    _ = (q + r) * g' := by rw [add_mul]; omega

theorem brightenCharge_le {p p' s s' : Nat} (hp : p ≤ p') (h : s ≤ s') (h' : s' ≤ 20) :
    brightenCharge p s ≤ brightenCharge p' s' :=
  max_le_max le_rfl (Nat.div_le_div_right (Nat.mul_le_mul hp (stepG_le_stepG h h')))

theorem dimCharge_le {p p' s s' : Nat} (hp : p ≤ p') (h : s ≤ s') (h' : s' ≤ 20) :
    dimCharge p s ≤ dimCharge p' s' :=
  max_le_max le_rfl <|
    (Nat.div_le_div_right (Nat.mul_le_mul_right _ hp)).trans
      (share_le_share (by decide) (stepG_le_stepG h h'))

theorem groupCharge_le (entries : List GroupEntry) {s s' : Nat} (h : s ≤ s') (h' : s' ≤ 20) :
    groupCharge entries s ≤ groupCharge entries s' :=
  List.sum_le_sum fun _ _ => brightenCharge_le le_rfl h h'

/-- Settles O7: the table's twenty values by computation, and the charges by their monotony. -/
theorem stepTableAndChargesRise : Obligations.StepTableAndChargesRise := by
  refine ⟨fun s _ hs => ⟨rfl, stepQ_rounds hs⟩, rfl, fun s s' => stepG_lt_stepG,
    fun p s s' _ h h' => ⟨brightenCharge_le le_rfl h h', dimCharge_le le_rfl h h'⟩,
    fun entries s s' _ => groupCharge_le entries, fun p s hp _ hs => ⟨?_, ?_, ?_⟩⟩
  · exact (brightenCharge_le hp hs le_rfl).trans (by decide)
  · exact (dimCharge_le hp hs le_rfl).trans (by decide)
  · exact max_le (by decide) (show p / 256 ≤ 1235 by omega)

/-! ## The answer of a budget -/

section Offer

variable {b : Budget} {w : Window} {a : Allowance} {charge : Nat → Nat} {size : Nat} {shrinks : Bool}

theorem offer_uncharged (hw : b.window = some w) (ha : w.allowance = none) :
    b.offer charge size shrinks = .uncharged := by
  simp only [Budget.offer, hw, ha]

theorem offer_of_covers (hw : b.window = some w) (ha : w.allowance = some a)
    (h : charge size ≤ a.remaining) : b.offer charge size shrinks = .grant size (charge size) := by
  simp only [Budget.offer, hw, ha, h, if_true]

theorem offer_of_not_covers (hw : b.window = some w) (ha : w.allowance = some a)
    (h : a.remaining < charge size) : b.offer charge size false = .hold := by
  simp only [Budget.offer, hw, ha, Nat.not_le.mpr h, if_false]
  rfl

theorem offer_of_no_smaller (hw : b.window = some w) (ha : w.allowance = some a)
    (h : a.remaining < charge size) (hnone : ∀ n, 1 ≤ n → n < size → a.remaining < charge n) :
    b.offer charge size true = .hold := by
  have hl : largest (fun n => charge n ≤ a.remaining) (size - 1) = none := by
    cases hm : largest (fun n => charge n ≤ a.remaining) (size - 1) with
    | none => rfl
    | some m =>
      obtain ⟨⟨h1, h2, h3⟩, -⟩ := isGreatest_of_largest_eq_some hm
      have := hnone m h1 (by omega)
      simp only [decide_eq_true_eq] at h3
      omega
  simp only [Budget.offer, hw, ha, Nat.not_le.mpr h, if_false, if_true, hl]

theorem offer_of_smaller {n : Nat} (hw : b.window = some w) (ha : w.allowance = some a)
    (h : a.remaining < charge size) (h1 : 1 ≤ n) (hlt : n < size) (hn : charge n ≤ a.remaining)
    (hmax : ∀ m, n < m → m < size → a.remaining < charge m) :
    b.offer charge size true = .grant n (charge n) := by
  have hl : largest (fun n => charge n ≤ a.remaining) (size - 1) = some n := by
    have hmem : n ∈ fitting (fun n => charge n ≤ a.remaining) (size - 1) :=
      ⟨h1, by omega, decide_eq_true hn⟩
    cases hm : largest (fun n => charge n ≤ a.remaining) (size - 1) with
    | none =>
      rw [fitting_eq_empty_of_largest_eq_none hm] at hmem
      exact hmem.elim
    | some m =>
      obtain ⟨⟨-, h2, h3⟩, hge⟩ := isGreatest_of_largest_eq_some hm
      have hnm : n ≤ m := hge hmem
      simp only [decide_eq_true_eq] at h3
      rcases hnm.eq_or_lt with rfl | hlt'
      · rfl
      · have := hmax m hlt' (by omega)
        omega
  simp only [Budget.offer, hw, ha, Nat.not_le.mpr h, if_false, if_true, hl]

theorem reserve_window (hw : b.window = some w) (ha : w.allowance = some a) (x : Nat) :
    (b.reserve x).window =
      some { w with allowance := some { a with remaining := a.remaining - x } } := by
  simp only [Budget.reserve, hw, ha, Option.map_some]

end Offer

/-- Settles O8: one lemma for each answer of the Budget Unit. -/
theorem budgetAnswersByTheRemaining : Obligations.BudgetAnswersByTheRemaining := by
  intro b w charge size shrinks hw
  refine ⟨offer_uncharged hw, fun a ha => ⟨offer_of_covers hw ha, fun h hs => ?_, fun h hs hnone => ?_,
    fun n h hs h1 hlt hn hmax => ?_, fun x _ => reserve_window hw ha x⟩⟩
  · rw [hs]
    exact offer_of_not_covers hw ha h
  · rw [hs]
    exact offer_of_no_smaller hw ha h hnone
  · rw [hs]
    exact offer_of_smaller hw ha h h1 hlt hn hmax

/-! ## The symbols of a word (R190) -/

@[simp] theorem length_symbolsOf (n v : Nat) : (symbolsOf n v).length = n := by
  induction n with
  | zero => rfl
  | succ n ih => simp [symbolsOf, ih]

theorem toNat_symbol (x : Nat) : (x % 2 == 1).toNat = x % 2 := by
  rcases Nat.mod_two_eq_zero_or_one x with h | h <;> simp [h]

/-- The value of symbols that follow others. -/
theorem foldl_symbolsOf (n v a : Nat) :
    (symbolsOf n v).foldl (fun v b => 2 * v + b.toNat) a = a * 2 ^ n + v % 2 ^ n := by
  induction n generalizing a with
  | zero => simp [symbolsOf, Nat.mod_one]
  | succ n ih =>
    rw [symbolsOf, List.foldl_cons, ih, toNat_symbol, Nat.pow_succ, Nat.mod_mul]
    ring

theorem valueOf_symbolsOf {n v : Nat} (h : v < 2 ^ n) : valueOf (symbolsOf n v) = v := by
  rw [valueOf, foldl_symbolsOf, Nat.zero_mul, Nat.zero_add, Nat.mod_eq_of_lt h]

/-- The symbols between what stands before and what stands after. -/
theorem wordField_append (a b c : List Bool) : wordField (a ++ b ++ c) a.length b.length = valueOf b := by
  simp [wordField, List.append_assoc]

theorem ToneState.code_bounds (st : ToneState) : 1 ≤ st.code ∧ st.code ≤ 5 := by cases st <;> decide

theorem ToneState.ofCode_code (st : ToneState) : ToneState.ofCode st.code = some st := by cases st <;> rfl

namespace ToneWord

variable (w : ToneWord)

theorem length_symbols : w.symbols.length = 24 := by simp [symbols, syncPattern]

theorem take_symbols : w.symbols.take 6 = syncPattern := by simp [symbols, syncPattern]

theorem channel_symbols : wordField w.symbols 6 7 = w.channel.val := by
  have hv : w.channel.val < 2 ^ 7 := w.channel.isLt
  calc wordField w.symbols 6 7
      = wordField (syncPattern ++ symbolsOf 7 w.channel.val ++
          (symbolsOf 3 w.state.code ++ symbolsOf 4 w.indexCheck ++ symbolsOf 4 w.check))
          syncPattern.length (symbolsOf 7 w.channel.val).length := by
        simp only [symbols, List.append_assoc, length_symbolsOf]
        rfl
    _ = w.channel.val := by rw [wordField_append, valueOf_symbolsOf hv]

theorem state_symbols : wordField w.symbols 13 3 = w.state.code := by
  have hv : w.state.code < 2 ^ 3 := Nat.lt_of_le_of_lt w.state.code_bounds.2 (by decide)
  calc wordField w.symbols 13 3
      = wordField (syncPattern ++ symbolsOf 7 w.channel.val ++ symbolsOf 3 w.state.code ++
          (symbolsOf 4 w.indexCheck ++ symbolsOf 4 w.check))
          (syncPattern ++ symbolsOf 7 w.channel.val).length (symbolsOf 3 w.state.code).length := by
        simp only [symbols, List.append_assoc, length_symbolsOf, List.length_append]
        rfl
    _ = w.state.code := by rw [wordField_append, valueOf_symbolsOf hv]

theorem index_symbols : wordField w.symbols 16 4 = w.tone.val % 16 := by
  have hv : w.indexCheck < 2 ^ 4 := Nat.mod_lt _ (by decide)
  calc wordField w.symbols 16 4
      = wordField (syncPattern ++ symbolsOf 7 w.channel.val ++ symbolsOf 3 w.state.code ++
          symbolsOf 4 w.indexCheck ++ symbolsOf 4 w.check)
          (syncPattern ++ symbolsOf 7 w.channel.val ++ symbolsOf 3 w.state.code).length
          (symbolsOf 4 w.indexCheck).length := by
        simp only [symbols, length_symbolsOf, List.length_append]
        rfl
    _ = w.tone.val % 16 := by rw [wordField_append, valueOf_symbolsOf hv]; rfl

theorem check_symbols : wordField w.symbols 20 4 = w.check := by
  have hv : w.check < 2 ^ 4 := Nat.lt_succ_of_le
    (toneCheck_le w.channel.isLt (Nat.lt_of_le_of_lt w.state.code_bounds.2 (by decide))
      (Nat.mod_lt _ (by decide)))
  calc wordField w.symbols 20 4
      = wordField (syncPattern ++ symbolsOf 7 w.channel.val ++ symbolsOf 3 w.state.code ++
          symbolsOf 4 w.indexCheck ++ symbolsOf 4 w.check ++ [])
          (syncPattern ++ symbolsOf 7 w.channel.val ++ symbolsOf 3 w.state.code ++
            symbolsOf 4 w.indexCheck).length (symbolsOf 4 w.check).length := by
        simp only [symbols, length_symbolsOf, List.length_append, List.append_nil]
        rfl
    _ = w.check := by rw [wordField_append, valueOf_symbolsOf hv]

theorem qualifies_symbols : qualifies w.symbols = true := by
  rw [qualifies_iff, take_symbols, check_symbols, channel_symbols, state_symbols, index_symbols]
  exact ⟨rfl, rfl⟩

end ToneWord

/-! ## Rotations of a block (R35) -/

@[simp] theorem length_rotation (block : List Bool) (r : Nat) : (rotation block r).length = block.length := by
  simp [rotation]
  omega

/-- The rotation that undoes another is one of the twenty-four. -/
theorem rotation_rotation {block : List Bool} {r : Nat} (h : r < block.length) :
    ∃ n < block.length, rotation (rotation block r) n = block := by
  rcases Nat.eq_zero_or_pos r with rfl | hr
  · exact ⟨0, h, by simp [rotation]⟩
  · refine ⟨block.length - r, by omega, ?_⟩
    have hlen : (block.drop r).length = block.length - r := List.length_drop
    rw [rotation, rotation, List.drop_left' hlen, List.take_left' hlen, List.take_append_drop]

/-- A list in which one element alone passes a test, and that holds an element that passes it. -/
theorem filter_eq_singleton {α : Type} {l : List α} {p : α → Bool} {x : α} (hx : x ∈ l) (hp : p x = true)
    (hone : l.countP p = 1) : l.filter p = [x] := by
  rw [List.countP_eq_length_filter, List.length_eq_one_iff] at hone
  obtain ⟨y, hy⟩ := hone
  have hmem : x ∈ l.filter p := List.mem_filter.mpr ⟨hx, hp⟩
  rw [hy, List.mem_singleton] at hmem
  rw [hy, hmem]

theorem decodeBlock_rotation (w : ToneWord) {r : Nat} (hr : r < 24)
    (hone : ((List.range 24).countP fun n => qualifies (rotation (rotation w.symbols r) n)) = 1) :
    decodeBlock w.tone (rotation w.symbols r) = some (w.channel, w.state) := by
  have hlen := w.length_symbols
  obtain ⟨n, hn, hrot⟩ := rotation_rotation (block := w.symbols) (r := r) (by omega)
  have hmem : w.symbols ∈ (List.range 24).map (rotation (rotation w.symbols r)) :=
    List.mem_map.mpr ⟨n, List.mem_range.mpr (by omega), hrot⟩
  have hfilter := filter_eq_singleton hmem w.qualifies_symbols (by rw [List.countP_map]; exact hone)
  have hchannel : Fin.ofNat 128 w.channel.val = w.channel := Fin.ofNat_val_eq_self _
  simp only [decodeBlock, length_rotation, hlen, if_true, hfilter, w.index_symbols, w.state_symbols,
    w.channel_symbols, w.state.ofCode_code, hchannel]

/-- Settles O10: the fields of the layout are read back, and the rotation that undoes the phase is the one
that qualifies. -/
theorem aKeyedWordIsReadBack : Obligations.AKeyedWordIsReadBack := by
  intro w
  refine ⟨w.length_symbols, w.take_symbols, w.channel_symbols, w.state_symbols, w.index_symbols,
    w.check_symbols, w.qualifies_symbols, fun before r hb hr hone => ?_⟩
  have hblock : ((before ++ rotation w.symbols r).drop 8).take 24 = rotation w.symbols r := by
    rw [List.drop_left' hb, List.take_of_length_le (by simp [w.length_symbols])]
  rw [decodeWindow, hblock]
  exact decodeBlock_rotation w hr hone

end Sys2Proof.Machine
end

section
/-! SUPPORT. Transfers of the control port as they decode (R181, R192), and the checks of a frame in their
order (R182). -/

namespace Sys2Proof.Machine

/-! ## Transfers -/

/-- A well-formed command that has a code has a payload that a length of 16 bits states, and its code names
it. -/
theorem commandOf_of_codeOf {i : Instr} {code : Byte} {p : List Byte} (hw : i.wellFormed = true)
    (h : codeOf i = some (code, p)) : p.length < 65536 ∧ commandOf code p = i := by
  cases i
  case unknownCommand c q =>
    cases h
    simpa [Instr.wellFormed, payloadOk] using hw
  case configure | openContext | adopt | cancel | free | readContext | readCensus | readDegree |
      takeEvents | setAttnMask | forceGuard | linkRetry | restart =>
    cases h
    exact ⟨by simpa [Instr.wellFormed, payloadOk] using hw, rfl⟩
  all_goals cases h

theorem encodeTransfer_of_codeOf {i : Instr} {code : Byte} {p : List Byte} (h : codeOf i = some (code, p)) :
    encodeTransfer i =
      some (0x01#8 :: code :: BitVec.ofNat 8 (p.length / 256) :: BitVec.ofNat 8 p.length :: p) := by
  simp only [encodeTransfer, h]

/-- R192: a length below 2^16 is read from its two bytes. -/
theorem word16_length {n : Nat} (h : n < 65536) :
    word16 (BitVec.ofNat 8 (n / 256)) (BitVec.ofNat 8 n) = n := by
  simp only [word16, BitVec.toNat_ofNat]
  omega

theorem decodeTransfer_write (code : Byte) {rest : List Byte} {n : Nat} (hn : n < 65536) :
    decodeTransfer (0x01#8 :: code :: BitVec.ofNat 8 (n / 256) :: BitVec.ofNat 8 n :: rest) =
      if n ≤ rest.length then commandOf code (rest.take n)
      else .writeIncomplete
        (0x01#8 :: code :: BitVec.ofNat 8 (n / 256) :: BitVec.ofNat 8 n :: rest) := by
  simp [decodeTransfer, word16_length hn]

theorem exists_code {i : Instr} (h : (codeOf i).isSome = true) : ∃ code p, codeOf i = some (code, p) := by
  obtain ⟨⟨code, p⟩, h⟩ := Option.isSome_iff_exists.mp h
  exact ⟨code, p, h⟩

/-- A command's transfer decodes as the command, whatever follows it. -/
theorem decodeTransfer_append {i : Instr} {bytes : List Byte} (more : List Byte) (hw : i.wellFormed = true)
    (hc : (codeOf i).isSome = true) (h : encodeTransfer i = some bytes) :
    decodeTransfer (bytes ++ more) = i := by
  obtain ⟨code, p, hcode⟩ := exists_code hc
  obtain ⟨hlen, hof⟩ := commandOf_of_codeOf hw hcode
  rw [encodeTransfer_of_codeOf hcode] at h
  cases h
  simp only [List.cons_append]
  rw [decodeTransfer_write code hlen, if_pos (by simp), List.take_left' rfl, hof]

/-- A command's transfer cut short is no command. -/
theorem decodeTransfer_take {i : Instr} {bytes : List Byte} {n : Nat} (hw : i.wellFormed = true)
    (hc : (codeOf i).isSome = true) (h : encodeTransfer i = some bytes) (hn : n < bytes.length) :
    decodeTransfer (bytes.take n) = .writeIncomplete (bytes.take n) := by
  obtain ⟨code, p, hcode⟩ := exists_code hc
  obtain ⟨hlen, -⟩ := commandOf_of_codeOf hw hcode
  rw [encodeTransfer_of_codeOf hcode] at h
  cases h
  match n with
  | 0 | 1 | 2 | 3 => rfl
  | n + 4 =>
    simp only [List.length_cons] at hn
    simp only [List.take_succ_cons]
    rw [decodeTransfer_write code hlen, if_neg (by rw [List.length_take]; omega)]

/-- Settles O11: a command by its code, and the two transfers without one. -/
theorem transfersDecodeAsTheyEncode : Obligations.TransfersDecodeAsTheyEncode := by
  refine ⟨fun i bytes hw h => ?_, fun i bytes more => decodeTransfer_append more,
    fun i bytes n => decodeTransfer_take⟩
  by_cases hc : (codeOf i).isSome = true
  · rw [← List.append_nil bytes]
    exact decodeTransfer_append [] hw hc h
  · cases i
    case writeIncomplete transfer =>
      cases h
      simpa [Instr.wellFormed] using hw
    case responseRead count =>
      cases h
      simp [decodeTransfer]
    case unknownCommand | configure | openContext | adopt | cancel | free | readContext | readCensus | readDegree |
        takeEvents | setAttnMask | forceGuard | linkRetry | restart => exact absurd rfl hc
    all_goals cases h

/-! ## The checks of a frame, in their order (R182) -/

namespace State

variable {s : State}

/-- R179: in RESTARTING the part turns every frame away. -/
theorem exec_of_restarting {i : Instr} (hc : (codeOf i).isSome = true) (hp : s.part = .restarting) :
    exec i s = .next (s.refused .restarting) := by
  have away {adm : Admission} {length : Nat} {p : List Byte}
      {body : State → Except Status (List Byte × State)} :
      Host.Outcome.next (s.answer adm length p body) =
        (Host.Outcome.next (s.refused .restarting) : Host.Outcome State Fault Refusal) :=
    congrArg Host.Outcome.next (answer_of_refusal (by rw [hp]; cases adm <;> rfl))
  cases i
  case unknownCommand code p =>
    show Host.Outcome.next _ = _
    rw [if_pos hp, discardResponse_eq_taken]
    rfl
  case configure | openContext | adopt | cancel | free | readContext | readCensus | readDegree |
      takeEvents | setAttnMask | forceGuard | linkRetry | restart => exact away
  all_goals cases hc

/-- A frame that a RUN part alone takes. -/
theorem exec_of_unconfigured {make : List Byte → Instr} {p : List Byte}
    (hm : make ∈ [Instr.openContext, .adopt, .cancel, .free, .readContext, .readCensus, .setAttnMask,
      .forceGuard, .linkRetry, .restart]) (hp : s.part = .unconfigured) :
    exec (make p) s = .next (s.refused .notConfigured) := by
  have away {length : Nat} {body : State → Except Status (List Byte × State)} :
      Host.Outcome.next (s.answer .running length p body) =
        (Host.Outcome.next (s.refused .notConfigured) : Host.Outcome State Fault Refusal) :=
    congrArg Host.Outcome.next (answer_of_refusal (by rw [hp]; rfl))
  simp only [List.mem_cons, List.not_mem_nil, or_false] at hm
  rcases hm with rfl | rfl | rfl | rfl | rfl | rfl | rfl | rfl | rfl | rfl <;> exact away

/-- A frame of the wrong length, in a part state that takes the command. -/
theorem exec_of_length {adm : Admission} {length : Nat} {p : List Byte}
    {body : State → Except Status (List Byte × State)} (hadm : adm.refusal s.part = none)
    (hlen : p.length ≠ length) :
    Host.Outcome.next (s.answer adm length p body) =
      (Host.Outcome.next (s.refused .badField) : Host.Outcome State Fault Refusal) :=
  congrArg Host.Outcome.next (answer_of_length hadm hlen)

end State

open State

/-- Settles O12: every command answers through the one order of checks. -/
theorem framesAreCheckedInTheirOrder : Obligations.FramesAreCheckedInTheirOrder := by
  refine ⟨fun i s => exec_of_restarting, fun make p s => exec_of_unconfigured, fun p s hp => ?_,
    fun code p s hp => ?_, fun make length p s hm hp hlen => ?_, fun make length p s hm hp hlen => ?_⟩
  · exact congrArg Host.Outcome.next (answer_of_refusal (by rw [hp]; rfl))
  · show Host.Outcome.next _ = _
    rw [if_neg hp, discardResponse_eq_taken]
    rfl
  · have hadm (adm : Admission) (h : adm ≠ .configuring) : adm.refusal s.part = none := by
      rw [hp]
      cases adm
      · exact absurd rfl h
      · rfl
      · rfl
    simp only [List.mem_cons, List.not_mem_nil, or_false, Prod.mk.injEq] at hm
    rcases hm with ⟨rfl, rfl⟩ | ⟨rfl, rfl⟩ | ⟨rfl, rfl⟩ | ⟨rfl, rfl⟩ | ⟨rfl, rfl⟩ | ⟨rfl, rfl⟩ |
      ⟨rfl, rfl⟩ | ⟨rfl, rfl⟩ | ⟨rfl, rfl⟩ | ⟨rfl, rfl⟩ | ⟨rfl, rfl⟩ | ⟨rfl, rfl⟩ <;>
      exact exec_of_length (hadm _ nofun) hlen
  · have hadm (adm : Admission) (h : adm ≠ .running) : adm.refusal s.part = none := by
      rw [hp]
      cases adm
      · rfl
      · rfl
      · exact absurd rfl h
    simp only [List.mem_cons, List.not_mem_nil, or_false, Prod.mk.injEq] at hm
    rcases hm with ⟨rfl, rfl⟩ | ⟨rfl, rfl⟩ | ⟨rfl, rfl⟩ <;> exact exec_of_length (hadm _ nofun) hlen

end Sys2Proof.Machine
end

section
/-! SUPPORT. The records that OPEN and ADOPT write (R13 to R21): the checks passed by what the fields describe,
and the events that a record written, bound or tied raises. -/

namespace Sys2Proof.Machine

namespace State

variable {s t u : State} {f : OpenFields} {c : Context}

/-! ## The checks of R14, from the description -/

theorem groupedFields_of_describes (h : s.Describes f c) {e : Degree} (he : c.egress = some e)
    (ingress : Option Degree) : s.groupedFields f e ingress = some (ingress, some e, c.group) := by
  have hg := h.group
  unfold groupedFields
  cases hc : c.group with
  | none =>
    rw [hc] at hg
    rw [optionalField_eq_none_iff.mpr hg]
  | some g =>
    rw [hc] at hg
    obtain ⟨hlow, hhigh, -, hmembers, hcount⟩ := h.admitted g hc
    have hadm : s.groupAdmits g e = true :=
      groupAdmits_iff.mpr ⟨hlow, hhigh,
        fun j x hx hl hxg => (hmembers j x hx hl hxg).trans he, hcount⟩
    have hne : f.group ≠ 65535 := by
      rw [hg]
      show g ≠ 65535
      omega
    have hopt : optionalField f.group = some g := optionalField_eq_some_iff.mpr ⟨hg, hne⟩
    simp only [hopt, hadm, if_true]

theorem roleFields_of_describes (h : s.Describes f c) :
    s.roleFields c.role f = some (c.ingress, c.egress, c.group) := by
  have ofHead (hh : c.head = true) (ht : c.role ≠ .tail) :
      ((s.usedDegree f.egress).bind fun e => s.groupedFields f e none) =
        some (c.ingress, c.egress, c.group) := by
    obtain ⟨e, he, hev⟩ := h.egress ht
    rw [usedDegree_eq_some_iff.mpr hev, Option.bind_some, groupedFields_of_describes h he,
      h.noIngress hh, he]
  cases hr : c.role with
  | origin =>
    rw [roleFields_origin]
    exact ofHead (by simp [Context.head, hr]) (by rw [hr]; nofun)
  | answer =>
    rw [roleFields_answer]
    exact ofHead (by simp [Context.head, hr]) (by rw [hr]; nofun)
  | transit =>
    obtain ⟨e, he, hev⟩ := h.egress (by rw [hr]; nofun)
    obtain ⟨d, hd, hdv⟩ := h.ingress (by simp [Context.head, hr])
    have hne : ¬ d = e := fun hde => h.distinct hr (by rw [hd, he, hde])
    rw [roleFields_transit, usedDegree_eq_some_iff.mpr hev, usedDegree_eq_some_iff.mpr hdv]
    simp only [Option.bind_some, if_neg hne]
    rw [groupedFields_of_describes h he, hd, he]
  | tail =>
    obtain ⟨d, hd, hdv⟩ := h.ingress (by simp [Context.head, hr])
    have hgroup : c.group = none := by
      by_contra hc
      obtain ⟨g, hg⟩ := Option.ne_none_iff_exists'.mp hc
      obtain ⟨-, -, hnot, -⟩ := h.admitted g hg
      exact hnot hr
    have hf : optionalField f.group = none :=
      optionalField_eq_none_iff.mpr (by rw [h.group, hgroup]; rfl)
    simp only [roleFields]
    rw [usedDegree_eq_some_iff.mpr hdv, hf, hd, h.noEgress hr, hgroup]
    rfl

/-- R14, R19, R20: fields that describe a record write it. -/
theorem newRecord_of_describes (h : s.Describes f c) : s.newRecord f = some c.opened := by
  have htarget : (optionalField f.targetOverride).map (clamp 1 10000) = c.targetOverride := by
    rw [map_optionalField, h.targetOverride]
    rfl
  simp only [newRecord, Role.ofCode_eq_some_iff.mpr h.role, index?_eq_some_iff.mpr h.tone,
    index?_eq_some_iff.mpr h.channel, Priority.ofCode_eq_some_iff.mpr h.priority, Option.bind_some,
    roleFields_of_describes h, Option.map_some, htarget]
  have hs : clamp 1 20 f.sNom = c.sNom := h.sNom.symm
  have ht : clamp 1 10 f.tTol = c.tTol := h.tTol.symm
  have hd : clamp 10 7200 f.deadline = c.deadline := h.deadline.symm
  rw [hs, ht, hd]
  rfl

/-! ## The claims of R15 and R16 -/

theorem claimRecord_of_describes (h : s.Describes f c) : s.claimRecord f =
    match s.partnerOf c.opened f with
    | none => .error .partnerInvalid
    | some p =>
      if s.portTaken c then .error .portTaken
      else if s.toneTaken c then .error .toneTaken
      else .ok { c.opened with partner := p } := by
  unfold claimRecord
  rw [newRecord_of_describes h]
  rfl

theorem claimRecord_of_no_partner (h : s.Describes f c) (hv : ∀ q, ¬ s.ValidPartner f c.role c.tone q) :
    s.claimRecord f = .error .partnerInvalid := by
  have hnone : s.partnerOf c.opened f = none :=
    Option.eq_none_iff_forall_ne_some.mpr fun q hq => hv q (partnerOf_eq_some_iff.mp hq)
  rw [claimRecord_of_describes h, hnone]

section Partner

variable {q : Option Slot} (h : s.Describes f c) (hv : s.ValidPartner f c.role c.tone q)

include h hv

theorem claimRecord_of_partner : s.claimRecord f =
    if s.portTaken c then .error .portTaken
    else if s.toneTaken c then .error .toneTaken
    else .ok { c.opened with partner := q } := by
  have hq : s.partnerOf c.opened f = some q := partnerOf_eq_some_iff.mpr hv
  rw [claimRecord_of_describes h, hq]

theorem claimRecord_of_port (hp : ¬ s.PortFree c) : s.claimRecord f = .error .portTaken := by
  rw [claimRecord_of_partner h hv, if_pos]
  rwa [← Bool.not_eq_false, portTaken_eq_false_iff]

theorem claimRecord_of_tone (hp : s.PortFree c) (ht : ¬ s.ToneFree c) :
    s.claimRecord f = .error .toneTaken := by
  rw [claimRecord_of_partner h hv, portTaken_eq_false_iff.mpr hp, if_neg nofun, if_pos]
  rwa [← Bool.not_eq_false, toneTaken_eq_false_iff]

theorem claimRecord_of_free (hp : s.PortFree c) (ht : s.ToneFree c) :
    s.claimRecord f = .ok { c.opened with partner := q } := by
  rw [claimRecord_of_partner h hv, portTaken_eq_false_iff.mpr hp, toneTaken_eq_false_iff.mpr ht,
    if_neg nofun, if_neg nofun]

end Partner

/-! ## The slot (R13) -/

theorem discardRecord_of_idle {i : Slot} (h : s.ctx i = none) : s.discardRecord i = s := by
  unfold discardRecord
  rw [h]

theorem openSlot_of_idle {v : Nat} {i : Slot} (hv : v = i.val) (h : s.ctx i = none) :
    s.openSlot v = .ok i :=
  openSlot_of_not_live hv fun c hc => by rw [h] at hc; cases hc

theorem openSlot_of_beyond {v : Nat} (h : 63 < v) : s.openSlot v = .error .badField := by
  have : index? 64 v = none := Option.eq_none_iff_forall_ne_some.mpr fun i hi => by
    have := index?_eq_some_iff.mp hi
    omega
  simp only [openSlot, this]

theorem openSlot_of_live {v : Nat} {i : Slot} {x : Context} (hv : v = i.val) (hx : s.ctx i = some x)
    (hl : x.live = true) : s.openSlot v = .error .busy := by
  simp only [openSlot, index?_eq_some_iff.mpr hv, hx, Option.any_some, hl, if_true]

/-- OPEN and ADOPT refused by the slot. -/
theorem refused_of_slot_error {p : List Byte} {status : Status} (hp : s.part = .run) (hlen : p.length = 26)
    (h : s.openSlot (OpenFields.ofPayload p).slot = .error status) :
    exec (.openContext p) s = .next (s.refused status) ∧ exec (.adopt p) s = .next (s.refused status) := by
  have hslot : s.taken.openSlot (OpenFields.ofPayload p).slot = .error status := h
  rw [exec_openContext, exec_adopt, answer_of_body_error (running_refusal_of_run hp) hlen,
    answer_of_body_error (running_refusal_of_run hp) hlen]
  · exact ⟨rfl, rfl⟩
  · simp only [adoptRecord, hslot]
  · simp only [openRecord, hslot]

/-- OPEN and ADOPT refused by the checks of the record, on an IDLE slot. -/
theorem refused_of_claim_error {p : List Byte} {i : Slot} {status : Status} (hp : s.part = .run)
    (hlen : p.length = 26) (hi : (OpenFields.ofPayload p).slot = i.val) (hidle : s.ctx i = none)
    (h : s.claimRecord (OpenFields.ofPayload p) = .error status) :
    exec (.openContext p) s = .next (s.refused status) ∧ exec (.adopt p) s = .next (s.refused status) := by
  have hslot : s.taken.openSlot (OpenFields.ofPayload p).slot = .ok i := openSlot_of_idle hi hidle
  have hclaim : (s.taken.discardRecord i).claimRecord (OpenFields.ofPayload p) = .error status := by
    rw [discardRecord_of_idle (s := s.taken) hidle]
    exact h
  rw [exec_openContext, exec_adopt,
    answer_of_body_error (running_refusal_of_run hp) hlen (openRecord_of_claim_error hslot hclaim),
    answer_of_body_error (running_refusal_of_run hp) hlen (adoptRecord_of_claim_error hslot hclaim)]
  exact ⟨rfl, rfl⟩

theorem freeKeyer_eq_none (h : ∀ k, (s.keyer k).bound ≠ none) : s.freeKeyer? = none := by
  refine List.find?_eq_none.mpr fun k _ => ?_
  simpa using h k

end State

open State

/-- Settles O16: the checks in their order, each from what the fields describe. -/
theorem openRefusesClaimsThatAreHeld : Obligations.OpenRefusesClaimsThatAreHeld := by
  intro p s hrun hlen
  refine ⟨fun hslot => refused_of_slot_error hrun hlen (openSlot_of_beyond hslot), fun i hi =>
    ⟨fun x hx hl => refused_of_slot_error hrun hlen (openSlot_of_live hi hx hl), fun c hidle hc =>
      ⟨fun hv => refused_of_claim_error hrun hlen hi hidle (claimRecord_of_no_partner hc hv),
        fun q hv => ⟨fun hport => refused_of_claim_error hrun hlen hi hidle (claimRecord_of_port hc hv hport),
          fun hport htone =>
            refused_of_claim_error hrun hlen hi hidle (claimRecord_of_tone hc hv hport htone),
          fun hport htone hhead hkeyers => ?_⟩⟩⟩⟩
  rw [exec_openContext, answer_of_body_error (running_refusal_of_run hrun) hlen]
  have hslot : s.taken.openSlot (OpenFields.ofPayload p).slot = .ok i := openSlot_of_idle hi hidle
  have hfree := claimRecord_of_free hc hv hport htone
  have hclaim : s.taken.claimRecord (OpenFields.ofPayload p) = .ok { c.opened with partner := q } := hfree
  have hh : Context.head { c.opened with partner := q } = true := hhead
  have hnone : s.taken.freeKeyer? = none := freeKeyer_eq_none hkeyers
  simp only [openRecord, hslot, discardRecord_of_idle (s := s.taken) hidle, hclaim, hh, hnone, if_true]

end Sys2Proof.Machine
end

section
/-! SUPPORT. What a record written, bound, tied or discarded leaves as it is, and the events it raises (R12,
R13, R17 to R19). -/

namespace Sys2Proof.Machine

namespace State

variable {s t u : State} {c : Context} {i : Slot}

/-! ## The fields of a state beside what never moves -/

theorem eq_of_still (h : t.still = s.still) :
    t = { s with contexts := t.contexts, keyers := t.keyers, budgets := t.budgets, links := t.links
                 events := t.events } := by
  simp only [still, Still.mk.injEq] at h
  obtain ⟨h1, h2, h3, h4, h5, h6, h7, h8, h9, h10, -, -⟩ := h
  rw [← h1, ← h2, ← h3, ← h4, ← h5, ← h6, ← h7, ← h8, ← h9, ← h10]

theorem degreeEvents_of_still (h : t.still = s.still) : t.events.degree = s.events.degree :=
  congrArg Still.degreeFlags h

theorem linkEvents_of_still (h : t.still = s.still) : t.events.link = s.events.link :=
  congrArg Still.linkFlags h

/-! ## Links of the records that go (R172) -/

theorem links_modCtx (s : State) (i : Slot) (g : Context → Context) : (s.modCtx i g).links = s.links := by
  unfold modCtx
  split
  · rfl
  · exact links_putRecord s i _

theorem links_unbind (s : State) (i : Slot) : (s.unbind i).links = s.links := by
  unfold unbind
  split
  · rfl
  · exact links_modCtx s _ _

theorem link_of_links (h : t.links = s.links) (d : Degree) : t.link d = s.link d := by
  simp only [link, h]

/-- The record of the slot, as the end of its binding leaves it, has its link. -/
theorem ctx_unbind_self {x : Context} (hx : s.ctx i = some x) :
    ∃ y, (s.unbind i).ctx i = some y ∧ y.identity = x.identity := by
  rw [ctx_unbind, hx]
  exact ⟨_, rfl, (leftBy_of x i i _).1⟩

theorem linkOf_of_identity {c d : Context} (h : d.identity = c.identity) : d.link = c.link :=
  congrArg Prod.fst (port_of_identity h)

theorem link_forgetEntries {x : Context} (hx : s.ctx i = some x) (d : Degree) :
    (s.forgetEntries i).link d = if d = x.link then (s.link d).forgetting i else s.link d := by
  unfold forgetEntries
  rw [hx]
  dsimp only
  rw [modLink, link_setLink]
  by_cases h : d = x.link
  · rw [if_pos h.symm, if_pos h, h]
    rfl
  · rw [if_neg (Ne.symm h), if_neg h]

/-- R172: the link of a record that goes forgets it. -/
theorem link_unbind_forgetEntries (hc : s.ctx i = some c) (d : Degree) :
    ((s.unbind i).forgetEntries i).link d =
      if d = c.link then (s.link d).forgetting i else s.link d := by
  obtain ⟨y, hy, hyc⟩ := ctx_unbind_self hc
  rw [link_forgetEntries hy, link_of_links (links_unbind s i), linkOf_of_identity hyc]

theorem link_discardRecord (hc : s.ctx i = some c) (d : Degree) :
    (s.discardRecord i).link d = if d = c.link then (s.link d).forgetting i else s.link d := by
  have e : (s.discardRecord i).links = ((s.unbind i).forgetEntries i).links := by
    unfold discardRecord
    rw [hc]
    rfl
  rw [link_of_links e, link_unbind_forgetEntries hc]

theorem budgets_modCtx (s : State) (i : Slot) (g : Context → Context) :
    (s.modCtx i g).budgets = s.budgets := by
  unfold modCtx
  split
  · rfl
  · exact budgets_putRecord s i _

theorem budgets_unbind (s : State) (i : Slot) : (s.unbind i).budgets = s.budgets := by
  unfold unbind
  split
  · rfl
  · exact budgets_modCtx s _ _

theorem budgets_forgetEntries (s : State) (i : Slot) : (s.forgetEntries i).budgets = s.budgets := by
  unfold forgetEntries
  split <;> rfl

theorem budgets_discardRecord (s : State) (i : Slot) : (s.discardRecord i).budgets = s.budgets := by
  unfold discardRecord
  split
  · rfl
  · exact (budgets_forgetEntries _ i).trans (budgets_unbind s i)

theorem change_discardRecord (hc : s.ctx i = some c) : (s.discardRecord i).events.change[i] = false := by
  unfold discardRecord
  rw [hc]
  simp [clearChange]

theorem discardRecord_eq (s : State) (i : Slot) : s.discardRecord i =
    { s with contexts := (s.discardRecord i).contexts, links := (s.discardRecord i).links
             events := (s.discardRecord i).events } := by
  conv_lhs => rw [eq_of_still (still_discardRecord s i)]
  rw [keyers_discardRecord, budgets_discardRecord]

theorem discardRecord_discardRecord (s : State) (i : Slot) :
    (s.discardRecord i).discardRecord i = s.discardRecord i :=
  discardRecord_of_idle (by rw [ctx_discardRecord, if_pos rfl])

section Discard

variable {p : List Byte} (hslot : (OpenFields.ofPayload p).slot = i.val)
  (hended : ∀ x, s.ctx i = some x → x.state = .ended)

include hslot hended

/-- R13: OPEN sees an ENDED record discarded. -/
theorem openRecord_discardRecord : openRecord p (s.discardRecord i) = openRecord p s := by
  have h1 : s.openSlot (OpenFields.ofPayload p).slot = .ok i := openSlot_of_not_live hslot hended
  have h2 : (s.discardRecord i).openSlot (OpenFields.ofPayload p).slot = .ok i :=
    openSlot_of_idle hslot (by rw [ctx_discardRecord, if_pos rfl])
  simp only [openRecord, h1, h2, discardRecord_discardRecord]

/-- R13: ADOPT sees an ENDED record discarded. -/
theorem adoptRecord_discardRecord : adoptRecord p (s.discardRecord i) = adoptRecord p s := by
  have h1 : s.openSlot (OpenFields.ofPayload p).slot = .ok i := openSlot_of_not_live hslot hended
  have h2 : (s.discardRecord i).openSlot (OpenFields.ofPayload p).slot = .ok i :=
    openSlot_of_idle hslot (by rw [ctx_discardRecord, if_pos rfl])
  simp only [adoptRecord, h1, h2, discardRecord_discardRecord]

end Discard

end State

open State

/-- Settles O18: the discard writes the slot, its partner and its link, and the body of either command sees
the table with it done. -/
theorem openDiscardsTheEndedRecord : Obligations.OpenDiscardsTheEndedRecord := by
  intro s i c hc hended
  have hstill := still_discardRecord s i
  refine ⟨⟨discardRecord_eq s i, ?_, fun j hj => ?_, link_discardRecord hc, change_discardRecord hc,
    degreeEvents_of_still hstill, linkEvents_of_still hstill⟩, fun p hp hlen hslot => ?_⟩
  · rw [ctx_discardRecord, if_pos rfl]
  · rw [ctx_discardRecord, if_neg (Ne.symm hj), hc]
    rfl
  · have hend : ∀ x, s.taken.ctx i = some x → x.state = .ended := fun x hx => by
      have e : s.ctx i = some x := hx
      rw [hc] at e
      cases e
      exact hended
    rw [openRecord_discardRecord hslot hend, adoptRecord_discardRecord hslot hend, exec_openContext,
      exec_adopt]
    have hadm := running_refusal_of_run hp
    exact ⟨fun st h => congrArg Host.Outcome.next (answer_of_body_error hadm hlen h),
      fun b v h => congrArg Host.Outcome.next (answer_of_body_ok hadm hlen h),
      fun st h => congrArg Host.Outcome.next (answer_of_body_error hadm hlen h),
      fun b v h => congrArg Host.Outcome.next (answer_of_body_ok hadm hlen h)⟩

end Sys2Proof.Machine
end

section
/-! SUPPORT. The record that OPEN writes (R16, R18, R19): its events, its partner and its keyer. -/

namespace Sys2Proof.Machine

/-- A record as OPEN leaves it, with the partner, answer hold and keyer that it is given. -/
theorem Context.eq_of_fresh {c : Context} (hf : c.Fresh) (hs : c.state = .armed) (ha : c.atten = .blocked) :
    { c.opened with partner := c.partner, answerHold := c.answerHold } = { c with keyer := none } := by
  unfold Context.Fresh at hf
  cases c
  simp only [Context.mk.injEq] at hf hs ha
  simp_all [Context.opened]

namespace State

variable {s t u : State} {c n : Context} {i : Slot}

/-! ## Writing records alone -/

/-- Records, keyers and the change flags with ATTN are all that is written. -/
structure Writes (s t : State) : Prop where
  still : t.still = s.still
  budgets : t.budgets = s.budgets
  links : t.links = s.links

theorem Writes.refl (s : State) : s.Writes s := ⟨rfl, rfl, rfl⟩

theorem Writes.trans (h1 : s.Writes t) (h2 : t.Writes u) : s.Writes u :=
  ⟨h2.still.trans h1.still, h2.budgets.trans h1.budgets, h2.links.trans h1.links⟩

theorem Writes.eq (h : s.Writes t) :
    t = { s with contexts := t.contexts, keyers := t.keyers, events := t.events } := by
  conv_lhs => rw [eq_of_still h.still]
  rw [h.budgets, h.links]

theorem writes_putRecord (s : State) (i : Slot) (c : Option Context) : s.Writes (s.putRecord i c) :=
  ⟨still_putRecord s i c, budgets_putRecord s i c, links_putRecord s i c⟩

theorem writes_modCtx (s : State) (i : Slot) (f : Context → Context) : s.Writes (s.modCtx i f) :=
  ⟨still_modCtx s i f, budgets_modCtx s i f, links_modCtx s i f⟩

theorem writes_modKeyer (s : State) (k : KeyerNo) (f : Keyer → Keyer) : s.Writes (s.modKeyer k f) :=
  ⟨rfl, rfl, rfl⟩

theorem writes_place (s : State) (i : Slot) (c : Context) : s.Writes (s.place i c) := by
  refine Writes.trans ?_ (writes_putRecord _ i _)
  unfold bindPartner
  split
  · exact Writes.refl s
  · exact writes_modCtx s _ _

theorem writes_startKeyer (s : State) (i : Slot) : s.Writes (s.startKeyer i) := by
  unfold startKeyer
  split
  · exact Writes.refl s
  · split
    · exact Writes.refl s
    · exact writes_modKeyer s _ _

theorem writes_tieKeyer (s : State) (i : Slot) (k : KeyerNo) : s.Writes (s.tieKeyer i k) :=
  (writes_modKeyer s k _).trans (writes_modCtx _ i _)

theorem writes_bindKeyer (s : State) (i : Slot) (k : KeyerNo) : s.Writes (s.bindKeyer i k) := by
  rw [bindKeyer_eq]
  split
  · exact writes_tieKeyer s i k
  · exact (writes_tieKeyer s i k).trans (writes_startKeyer _ i)

/-! ## The events of a record written (R12, R188) -/

theorem events_putRecord_of_eq {o : Option Context} (h : o.map Context.shown = (s.ctx i).map Context.shown) :
    (s.putRecord i o).events = s.events := by
  rw [putRecord, if_pos h]
  rfl

section Marked

variable {o : Option Context} (hp : s.part ≠ .restarting)
  (h : o.map Context.shown ≠ (s.ctx i).map Context.shown)

include hp h

theorem events_putRecord_of_ne : (s.putRecord i o).events =
    { s.events with change := s.events.change.set i true, attn := s.events.attn || s.mask.context } := by
  have hp' : (s.setRecord i o).part ≠ .restarting := hp
  rw [putRecord, if_neg h, markChange, if_neg hp']
  rfl

theorem change_putRecord_of_ne (j : Slot) :
    (s.putRecord i o).events.change[j] = (s.events.change[j] || j == i) := by
  rw [events_putRecord_of_ne hp h]
  by_cases e : j = i
  · subst e
    simp
  · have hne : ¬ i.val = j.val := fun hv => e (Fin.ext hv.symm)
    simp [hne, e]

theorem attn_putRecord_of_ne : (s.putRecord i o).events.attn = (s.events.attn || s.mask.context) := by
  rw [events_putRecord_of_ne hp h]

end Marked

theorem part_of_still (h : t.still = s.still) : t.part = s.part := congrArg Still.part h

theorem mask_of_still (h : t.still = s.still) : t.mask = s.mask := congrArg Still.mask h

/-- R12, R16: what binding a partner that names none raises. -/
theorem events_bindPartner (hp : s.part ≠ .restarting) {q : Option Slot}
    (hq : ∀ k, q = some k → ∃ x, s.ctx k = some x ∧ x.partner = none) :
    (∀ j : Slot, (s.bindPartner i q).events.change[j] = (s.events.change[j] || q == some j)) ∧
      (s.bindPartner i q).events.attn = (s.events.attn || (q.isSome && s.mask.context)) := by
  cases q with
  | none => exact ⟨fun j => by simp [bindPartner], by simp [bindPartner]⟩
  | some k =>
    obtain ⟨x, hx, hn⟩ := hq k rfl
    have hmod : s.bindPartner i (some k) = s.putRecord k (some { x with partner := some i }) := by
      simp only [bindPartner, modCtx, hx]
    have hne : (some { x with partner := some i }).map Context.shown ≠ (s.ctx k).map Context.shown := by
      rw [hx]
      simp [Context.shown, hn]
    rw [hmod]
    refine ⟨fun j => ?_, ?_⟩
    · rw [change_putRecord_of_ne hp hne, Bool.beq_comm]
      rfl
    · rw [attn_putRecord_of_ne hp hne]
      simp

/-- R12: a new record raises its own flag and its partner's. -/
theorem events_place (hp : s.part ≠ .restarting) (hi : s.ctx i = none)
    (hq : ∀ k, c.partner = some k → ∃ x, s.ctx k = some x ∧ x.partner = none) :
    (∀ j : Slot, (s.place i c).events.change[j] = (s.events.change[j] || j == i || c.partner == some j)) ∧
      (s.place i c).events.attn = (s.events.attn || s.mask.context) := by
  obtain ⟨hchange, hattn⟩ := events_bindPartner (i := i) hp hq
  have hw : (s.bindPartner i c.partner).still = s.still := by
    unfold bindPartner
    split
    · rfl
    · exact still_modCtx s _ _
  have hp' : (s.bindPartner i c.partner).part ≠ .restarting := by rwa [part_of_still hw]
  have hne : (some c).map Context.shown ≠ ((s.bindPartner i c.partner).ctx i).map Context.shown := by
    rw [ctx_bindPartner, hi]
    nofun
  unfold place
  refine ⟨fun j => ?_, ?_⟩
  · rw [change_putRecord_of_ne hp' hne, hchange, Bool.or_right_comm]
  · rw [attn_putRecord_of_ne hp' hne, hattn, mask_of_still hw]
    cases s.events.attn <;> cases s.mask.context <;> simp

/-! ## The keyer of a new head (R18, R38, R42) -/

theorem events_tieKeyer (k : KeyerNo) (hi : s.ctx i = some n) : (s.tieKeyer i k).events = s.events := by
  have hk : (s.modKeyer k fun x => { x with bound := some i }).ctx i = some n := hi
  unfold tieKeyer
  rw [modCtx, hk]
  exact events_putRecord_of_eq (s := s.modKeyer k fun x => { x with bound := some i }) (by rw [hk]; rfl)

theorem startKeyer_of_keyer {k : KeyerNo} (hi : s.ctx i = some n) (hk : n.keyer = some k) :
    s.startKeyer i = s.modKeyer k fun x => x.start n := by
  simp only [startKeyer, hi, hk]

theorem bindKeyer_of_held {k : KeyerNo} (hi : s.ctx i = some n) (hh : n.answerHold = some .held) :
    s.bindKeyer i k = s.tieKeyer i k := by
  rw [bindKeyer_eq, ctx_tieKeyer k hi, if_pos rfl]
  simp [hh]

theorem bindKeyer_of_not_held {k : KeyerNo} (hi : s.ctx i = some n) (hh : n.answerHold ≠ some .held) :
    s.bindKeyer i k = (s.tieKeyer i k).modKeyer k fun x => x.start { n with keyer := some k } := by
  have htied : (s.tieKeyer i k).ctx i = some { n with keyer := some k } := by
    rw [ctx_tieKeyer k hi, if_pos rfl]
  rw [bindKeyer_eq, if_neg, startKeyer_of_keyer htied rfl]
  rw [htied]
  simpa using hh

/-- What a new head's record, keyer and events are. -/
theorem bindKeyer_spec {k : KeyerNo} (hi : s.ctx i = some n) (hk : s.keyer k = Keyer.free) :
    (∀ j, (s.bindKeyer i k).ctx j = if i = j then some { n with keyer := some k } else s.ctx j) ∧
      (∀ j, j ≠ k → (s.bindKeyer i k).keyer j = s.keyer j) ∧
      ((s.bindKeyer i k).keyer k =
        if n.answerHold = some .held then { Keyer.free with bound := some i }
        else
          { Keyer.free with
            bound := some i, output := .keying, position := some 0
            active := some { tone := n.tone, channel := n.channel, state := .probe } }) ∧
      (s.bindKeyer i k).events = s.events := by
  by_cases hh : n.answerHold = some .held
  · rw [bindKeyer_of_held hi hh, if_pos hh]
    refine ⟨ctx_tieKeyer k hi, fun j hj => ?_, ?_, events_tieKeyer k hi⟩
    · rw [keyer_tieKeyer, if_neg (Ne.symm hj)]
    · rw [keyer_tieKeyer, if_pos rfl, hk]
  · rw [bindKeyer_of_not_held hi hh, if_neg hh]
    refine ⟨fun j => ctx_tieKeyer k hi j, fun j hj => ?_, ?_, events_tieKeyer k hi⟩
    · rw [modKeyer, keyer_setKeyer, if_neg (Ne.symm hj), keyer_tieKeyer, if_neg (Ne.symm hj)]
    · rw [modKeyer, keyer_setKeyer, if_pos rfl, keyer_tieKeyer, if_pos rfl, hk]
      rfl

theorem freeKeyer_of_lowestFree {k : KeyerNo} (h : s.LowestFree k) : s.freeKeyer? = some k := by
  obtain ⟨hk, hlow⟩ := h
  unfold freeKeyer?
  rw [List.find?_eq_some_iff_getElem]
  refine ⟨by rw [hk]; rfl, k.val, by simp [allKeyers], by simp [allKeyers], fun j hj => ?_⟩
  have hjk := hlow ⟨j, hj.trans k.isLt⟩ hj
  simpa [allKeyers, Option.isSome_iff_ne_none] using hjk

/-! ## The answer hold (R19) -/

theorem partnerLeveled_iff : s.PartnerLeveled c ↔
    s.partnerState c = some .settled ∨ s.partnerState c = some .commissioned := by
  simp only [PartnerLeveled, partnerState, Option.bind_eq_some_iff, Option.map_eq_some_iff]
  constructor
  · rintro ⟨p, x, hp, hx, h | h⟩
    · exact Or.inl ⟨p, hp, x, hx, h⟩
    · exact Or.inr ⟨p, hp, x, hx, h⟩
  · rintro (⟨p, hp, x, hx, h⟩ | ⟨p, hp, x, hx, h⟩)
    · exact ⟨p, x, hp, hx, Or.inl h⟩
    · exact ⟨p, x, hp, hx, Or.inr h⟩

theorem openHold_eq {h : Option AnswerHold} (hnone : c.role ≠ .answer → h = none)
    (hreleased : c.role = .answer → s.PartnerLeveled c → h = some .released)
    (hheld : c.role = .answer → ¬ s.PartnerLeveled c → h = some .held) : s.openHold c = h := by
  unfold openHold
  by_cases hr : c.role = .answer
  · rw [if_pos hr]
    by_cases hl : s.PartnerLeveled c
    · rw [if_pos (partnerLeveled_iff.mp hl), hreleased hr hl]
    · rw [if_neg (mt partnerLeveled_iff.mpr hl), hheld hr hl]
  · rw [if_neg hr, hnone hr]

end State

open State

/-- R16: the partner that is named names none. -/
theorem State.ValidPartner.names_none {s : State} {f : OpenFields} {role : Role} {tone : Tone}
    {o : Option Slot} (h : s.ValidPartner f role tone o) (k : Slot) (hk : o = some k) :
    ∃ x, s.ctx k = some x ∧ x.partner = none := by
  subst hk
  obtain ⟨-, x, hx, -, -, -, hn, -⟩ := h
  exact ⟨x, hx, hn⟩

/-- What OPEN writes: the record placed with its partner bound, and a head tied to the lowest free keyer. -/
theorem openRecord_of_free {p : List Byte} {s : State} {i : Slot} {c : Context}
    (hslot : (OpenFields.ofPayload p).slot = i.val) (hidle : s.ctx i = none)
    (hclaim : s.claimRecord (OpenFields.ofPayload p) = .ok { c.opened with partner := c.partner })
    (hhold : s.openHold { c.opened with partner := c.partner } = c.answerHold)
    (hform : { c.opened with partner := c.partner, answerHold := c.answerHold } = { c with keyer := none })
    (hkeyer : c.head = true → ∃ k, c.keyer = some k ∧ s.LowestFree k)
    (hnone : c.head = false → c.keyer = none) :
    (c.keyer = none ∧ openRecord p s = .ok ([], s.place i { c with keyer := none })) ∨
      ∃ k, c.keyer = some k ∧ s.LowestFree k ∧
        openRecord p s = .ok ([], (s.place i { c with keyer := none }).bindKeyer i k) := by
  have hopen := openSlot_of_idle hslot hidle
  have hhead : Context.head { c.opened with partner := c.partner } = c.head := rfl
  unfold openRecord
  simp only [hopen, discardRecord_of_idle hidle, hclaim, hhold, hhead, hform]
  cases hh : c.head with
  | false => exact Or.inl ⟨hnone hh, rfl⟩
  | true =>
    obtain ⟨k, hk, hfree⟩ := hkeyer hh
    refine Or.inr ⟨k, hk, hfree, ?_⟩
    rw [freeKeyer_of_lowestFree hfree]
    rfl

/-- Settles O17: the record is placed, then tied to its keyer, which raises no flag. -/
theorem openWritesTheRecord : Obligations.OpenWritesTheRecord := by
  intro p s i c hrun hlen hslot hidle hdesc hv hport htone hfresh hst hatten hn hrel hheld hnok hkey
  have hclaim := claimRecord_of_free hdesc hv hport htone
  have hform := Context.eq_of_fresh hfresh hst hatten
  have hhold : s.openHold { c.opened with partner := c.partner } = c.answerHold :=
    openHold_eq (c := { c.opened with partner := c.partner }) hn hrel hheld
  have hidle' : s.taken.ctx i = none := hidle
  have hnr : s.taken.part ≠ .restarting := by
    show s.part ≠ _
    rw [hrun]
    nofun
  obtain ⟨hchange, hattn⟩ := events_place (s := s.taken) (c := { c with keyer := none }) hnr hidle'
    hv.names_none
  have hplace := writes_place s.taken i { c with keyer := none }
  have hself := ctx_place_self s.taken i { c with keyer := none }
  have hadm := running_refusal_of_run hrun
  rw [exec_openContext]
  rcases openRecord_of_free (s := s.taken) hslot hidle' hclaim hhold hform hkey hnok with
    ⟨hnone, hbody⟩ | ⟨k, hk, hfree, hbody⟩
  · have hc : ({ c with keyer := none } : Context) = c := by rw [← hnone]
    rw [hc] at hbody hplace hself hchange hattn
    refine ⟨_, congrArg Host.Outcome.next (answer_of_body_ok hadm hlen hbody), ?_, hself,
      fun j hj => ?_, fun k _ => keyer_of_keyers (keyers_place _ i c) k, fun k hk => ?_, hchange,
      (degreeEvents_of_still hplace.still :), (linkEvents_of_still hplace.still :), hattn⟩
    · exact congrArg (State.accepted · []) hplace.eq
    · exact (ctx_place s.taken i j c).trans (if_neg (Ne.symm hj))
    · rw [hnone] at hk
      cases hk
  · have hkeyer : (s.taken.place i { c with keyer := none }).keyer k = Keyer.free :=
      (keyer_of_keyers (keyers_place _ i _) k).trans hfree.1
    obtain ⟨hctx, hothers, hown, hevents⟩ := bindKeyer_spec hself hkeyer
    have hw := hplace.trans (writes_bindKeyer _ i k)
    refine ⟨_, congrArg Host.Outcome.next (answer_of_body_ok hadm hlen hbody), ?_, ?_, fun j hj => ?_,
      fun m hm => ?_, fun m hm => ?_, fun j => ?_, (degreeEvents_of_still hw.still :),
      (linkEvents_of_still hw.still :), ?_⟩
    · exact congrArg (State.accepted · []) hw.eq
    · refine (hctx i).trans ?_
      rw [if_pos rfl, ← hk]
    · refine (hctx j).trans ?_
      rw [if_neg (Ne.symm hj), ctx_place, if_neg (Ne.symm hj)]
      rfl
    · have hne : m ≠ k := fun e => hm (e ▸ hk)
      exact (hothers m hne).trans (keyer_of_keyers (keyers_place _ i _) m)
    · rw [hk] at hm
      cases hm
      exact hown
    · show (bindKeyer i k _).events.change[j] = _
      rw [hevents]
      exact hchange j
    · show (bindKeyer i k _).events.attn = _
      rw [hevents]
      exact hattn

end Sys2Proof.Machine
end

section
/-! SUPPORT. The RESET pin (R185), the ticks (R26, R43, R131), and the events of a keyer (R37, R41, R44). -/

namespace Sys2Proof.Machine

namespace State

variable {s : State}

/-! ## The ticks -/

theorem exec_secondTick (s : State) :
    exec .secondTick s = .next (if s.timebase.secondDue then s.tickSecond else s) := rfl

theorem exec_frameTick (s : State) :
    exec .frameTick s = .next (if s.timebase.frameDue then s.tickFrame else s) := rfl

theorem counting_iff (c : Context) : c.counting = true ↔
    c.state ≠ .commissioned ∧ c.state ≠ .ended ∧ c.frozen = false := by
  unfold Context.counting Context.listening
  cases c.state <;> simp

theorem budget_tickFrame (hp : s.part = .run) (d : Degree) : s.tickFrame.budget d = s.countFrames d := by
  simp [tickFrame, hp, budget]

theorem keyer_tickSecond (hp : s.part = .run) (k : KeyerNo) : s.tickSecond.keyer k = s.countLinger k := by
  simp [tickSecond, hp, keyer]

/-! ## The symbols of a keyer -/

theorem exec_symbolAdvance (k : KeyerNo) (s : State) : exec (.symbolAdvance k) s = .next (s.advanceSymbol k) := rfl

theorem exec_wordBoundary (k : KeyerNo) (s : State) : exec (.wordBoundary k) s = .next (s.crossWord k) := rfl

theorem sending_iff (k : Keyer) : k.sending = true ↔ k.output ≠ .silent := by
  unfold Keyer.sending
  cases k.output <;> simp

theorem keyer_setKeyer_of_ne {k j : KeyerNo} (h : j ≠ k) (v : Keyer) :
    (s.setKeyer k v).keyer j = s.keyer j := by
  rw [keyer_setKeyer, if_neg (Ne.symm h)]

/-- A keyer that sends nothing, or stands at no symbol, has neither event. -/
theorem not_advances {k : KeyerNo} (h : (s.keyer k).output = .silent ∨ (s.keyer k).position = none) :
    s.advanceSymbol k = s ∧ s.crossWord k = s := by
  rcases h with h | h
  · have hs : (s.keyer k).sending = false := by rw [Keyer.sending, h]; rfl
    constructor
    · unfold advanceSymbol
      dsimp only
      split
      · rfl
      · rw [hs]
        rfl
    · simp [crossWord, hs]
  · exact ⟨by simp [advanceSymbol, h], by simp [crossWord, h]⟩

section Sending

variable {k : KeyerNo} {n : Nat} (hs : (s.keyer k).output ≠ .silent) (hn : (s.keyer k).position = some n)

include hs hn

theorem advanceSymbol_eq : s.advanceSymbol k = s.setKeyer k
    (if n < 23 then { s.keyer k with position := some (n + 1) } else (s.keyer k).boundary) := by
  simp only [advanceSymbol, hn, (sending_iff _).mpr hs, if_true]

theorem crossWord_eq : s.crossWord k = if n = 23 then s.setKeyer k (s.keyer k).boundary else s := by
  simp [crossWord, hn, (sending_iff _).mpr hs]

end Sending

/-! ## Linger expiry (R44) -/

theorem exec_lingerExpiry (k : KeyerNo) (s : State) :
    exec (.lingerExpiry k) s = .next (if s.lingerMet k then s.expireLinger k else s) := rfl

theorem change_putRecord_off {i j : Slot} (h : j ≠ i) (o : Option Context) :
    (s.putRecord i o).events.change[j] = s.events.change[j] := by
  have hne : ¬ i.val = j.val := fun hv => h (Fin.ext hv.symm)
  unfold putRecord
  split
  · rfl
  · unfold markChange
    split
    · rfl
    · simp [hne]

theorem lingerMet_iff {k : KeyerNo} : s.lingerMet k = true ↔
    s.part = .run ∧ (s.keyer k).output = .linger ∧ (s.keyer k).lingerCount = 0 := by
  simp [lingerMet, and_assoc]

end State

open State

/-- Settles O32: the RESET pin builds the reset state, with the links' numbers and the queue kept. -/
theorem resetPinClearsThePart : Obligations.ResetPinClearsThePart := by
  intro s
  have hb := bare_resetPart s
  refine ⟨s.resetPart, rfl, hb, rfl, rfl, rfl, rfl, fun d => ?_, rfl, rfl, hb.keyers,
    fun d => ⟨hb.guards d, ?_⟩, tap_stopped rfl, rfl, rfl, rfl, rfl⟩
  · rw [link_resetPart]
    exact ⟨rfl, rfl, rfl, rfl, rfl, rfl, rfl, rfl⟩
  · rw [hb.budgets d]
    rfl

/-- Settles O35: a record counts as `Context.counting` says, a keyer while it lingers. -/
theorem secondTickCountsElapsedAndLinger : Obligations.SecondTickCountsElapsedAndLinger := by
  intro s
  rw [exec_secondTick]
  refine ⟨fun h => by rw [h]; rfl, fun h hp => ?_, fun h hp => ?_⟩
  · rw [h, if_pos rfl, tickSecond, if_neg hp]
  · rw [h, if_pos rfl]
    refine ⟨_, rfl, ?_, fun i hi => ?_, fun i c hi h1 h2 h3 => ?_, fun i c hi hc => ?_, keyer_tickSecond hp⟩
    · rw [tickSecond, if_pos hp]
    · rw [ctx_tickSecond hp, countElapsed, hi]
      rfl
    · rw [ctx_tickSecond hp, countElapsed, hi, Option.map_some, if_pos ((counting_iff c).mpr ⟨h1, h2, h3⟩)]
    · rw [ctx_tickSecond hp, countElapsed, hi, Option.map_some, if_neg]
      rw [counting_iff]
      rintro ⟨h1, h2, h3⟩
      rcases hc with hc | hc | hc
      · exact h1 hc
      · exact h2 hc
      · rw [h3] at hc
        cases hc

/-- Settles O36: each window by its frames left. -/
theorem frameTickCountsTheWindows : Obligations.FrameTickCountsTheWindows := by
  intro s
  rw [exec_frameTick]
  refine ⟨fun h => by rw [h]; rfl, fun h hp => ?_, fun h hp => ?_⟩
  · rw [h, if_pos rfl, tickFrame, if_neg hp]
  · rw [h, if_pos rfl]
    refine ⟨_, rfl, ?_, fun d => ?_⟩
    · rw [tickFrame, if_pos hp]
    · rw [budget_tickFrame hp, countFrames]
      refine ⟨fun hw => by simp only [hw], fun w hw => ⟨fun hf => ?_, fun hf => ?_⟩⟩
      · simp only [hw, if_pos hf]
      · simp only [hw, if_neg (Nat.not_lt.mpr hf)]

/-- Settles O38: the keyer is freed, and the record that held it is written with the mark. -/
theorem lingerExpiryFreesTheKeyer : Obligations.LingerExpiryFreesTheKeyer := by
  intro s k
  rw [exec_lingerExpiry]
  refine ⟨fun h => ?_, fun i c hp ho hl hb hc _ => ?_⟩
  · rw [if_neg]
    rw [lingerMet_iff]
    rintro ⟨h1, h2, h3⟩
    rcases h with h | h | h
    · exact h h1
    · exact h h2
    · exact h h3
  · rw [if_pos (lingerMet_iff.mpr ⟨hp, ho, hl⟩)]
    have hc' : (s.setKeyer k Keyer.free).ctx i = some c := hc
    have hexpire : s.expireLinger k = (s.setKeyer k Keyer.free).putRecord i
        (some { c with keyer := none, flags := { c.flags with keyerReleased := true } }) := by
      simp only [expireLinger, hb, modCtx, hc']
    have hw := writes_putRecord (s.setKeyer k Keyer.free) i
      (some { c with keyer := none, flags := { c.flags with keyerReleased := true } })
    have hkeys := keyers_putRecord (s.setKeyer k Keyer.free) i
      (some { c with keyer := none, flags := { c.flags with keyerReleased := true } })
    rw [hexpire]
    refine ⟨_, rfl, ?_, ?_, fun j hj => ?_, ?_, fun j hj => ?_, fun hr => ?_, fun j hj => ?_,
      (degreeEvents_of_still hw.still :), (linkEvents_of_still hw.still :)⟩
    · exact hw.eq
    · rw [keyer_of_keyers hkeys, keyer_setKeyer_self]
      rfl
    · rw [keyer_of_keyers hkeys, keyer_setKeyer_of_ne hj]
    · rw [ctx_putRecord, if_pos rfl]
    · rw [ctx_putRecord, if_neg (Ne.symm hj)]
      rfl
    · have hp' : (s.setKeyer k Keyer.free).part ≠ .restarting := by
        show s.part ≠ _
        rw [hp]
        nofun
      have hne : (some { c with keyer := none, flags := { c.flags with keyerReleased := true } }).map
          Context.shown ≠ ((s.setKeyer k Keyer.free).ctx i).map Context.shown := by
        rw [hc']
        simp only [Option.map_some, ne_eq, Option.some.injEq, Context.shown, Prod.mk.injEq, not_and]
        intro _ hflags
        have hrel := congrArg CondFlags.keyerReleased hflags
        rw [hr] at hrel
        cases hrel
      exact ⟨by rw [change_putRecord_of_ne hp' hne]; simp, attn_putRecord_of_ne hp' hne⟩
    · exact change_putRecord_off hj _

/-- Settles O39: the two events of a keyer, at a symbol before the last and at the last. -/
theorem keyersAdvanceAndTakeStagedWords : Obligations.KeyersAdvanceAndTakeStagedWords := by
  intro s k
  rw [exec_symbolAdvance, exec_wordBoundary]
  refine ⟨fun h => ?_, fun n hs hn => ⟨fun h => ?_, fun h => ?_⟩⟩
  · obtain ⟨h1, h2⟩ := not_advances h
    rw [h1, h2]
    exact ⟨rfl, rfl⟩
  · have hne : n ≠ 23 := ne_of_lt h
    rw [crossWord_eq hs hn, advanceSymbol_eq hs hn, if_neg hne, if_pos h]
    exact ⟨rfl, _, rfl, rfl, keyer_setKeyer_self s k _, fun j hj => keyer_setKeyer_of_ne hj _⟩
  · subst h
    rw [crossWord_eq hs hn, advanceSymbol_eq hs hn, if_pos rfl, if_neg (lt_irrefl 23)]
    refine ⟨_, rfl, rfl, rfl, fun w hw => ?_, fun hw => ?_, fun j hj => keyer_setKeyer_of_ne hj _⟩
    · rw [keyer_setKeyer_self, Keyer.boundary, hw]
      rfl
    · rw [keyer_setKeyer_self]
      simp [Keyer.boundary, hw]

end Sys2Proof.Machine
end

section
/-! SUPPORT. The payloads of the responses as lists of 16-bit fields (R192, R193). -/

namespace Sys2Proof.Machine

/-! ## One field, and two halves of a wide one -/

theorem payload16_append (a b : List Nat) : payload16 (a ++ b) = payload16 a ++ payload16 b := by
  simp [payload16]

theorem payload16_flatMap {α : Type} (l : List α) (f : α → List Nat) :
    payload16 (l.flatMap f) = l.flatMap fun x => payload16 (f x) := by
  simp [payload16, List.flatMap_assoc]

theorem payload16_map {α : Type} (l : List α) (f : α → Nat) :
    payload16 (l.map f) = l.flatMap fun x => u16 (f x) := by
  simp [payload16, List.flatMap_map]

theorem payload16_nil : payload16 [] = [] := rfl

theorem payload16_cons (n : Nat) (l : List Nat) : payload16 (n :: l) = u16 n ++ payload16 l := by
  simp [payload16]

theorem opt16_eq (v : Option Nat) : opt16 v = u16 (sent v) := rfl

theorem flag16_eq (b : Bool) : flag16 b = u16 b.toNat := rfl

theorem set16_eq (m : List Bool) : set16 m = u16 (setField m) := rfl

theorem optCode_eq {α : Type} (code : α → Nat) (v : Option α) : optCode code v = u16 (sent (v.map code)) := rfl

theorem u32_eq_payload (n : Nat) : u32 n = payload16 (halves n) := by
  simp only [u32, bits32, halves, payload16, u16, List.flatMap_cons, List.flatMap_nil, List.append_nil,
    List.cons_append, List.nil_append, List.cons.injEq, and_true]
  refine ⟨?_, ?_, ?_, ?_⟩ <;> apply BitVec.eq_of_toNat_eq <;>
    simp only [BitVec.extractLsb'_toNat, BitVec.toNat_ofNat, Nat.shiftRight_eq_div_pow] <;> omega

theorem bits32_eq_payload (b : BitVec 32) : bits32 b = payload16 (halves b.toNat) := by
  rw [← u32_eq_payload, u32, BitVec.ofNat_toNat, BitVec.setWidth_eq]

theorem opt32_eq_payload (v : Option Nat) : opt32 v = payload16 (sentWide v) := by
  cases v with
  | none => rfl
  | some n => exact u32_eq_payload n

theorem s32_eq_payload (v : Int) : s32 v = payload16 (signedHalves v) := by
  rw [s32, bits32_eq_payload, BitVec.toNat_ofInt]
  rfl

theorem readingField_eq_payload (r : Option Reading) : readingField r = payload16 (sentReading r) := by
  rw [readingField, sentReading, payload16_append, opt32_eq_payload]
  rfl

/-! ## READ_CONTEXT (R25, R47) -/

theorem stepPayload_eq (step : Option StepInFlight) : stepPayload step = payload16
    ([sent (step.map (·.kind.code)), sent (step.bind fun x => x.direction.map Direction.code),
      sent (step.bind (·.size)), sent (step.bind (·.commanded))] ++ sentWide (step.map (·.charge))) := by
  rw [payload16_append, ← opt32_eq_payload]
  cases step <;> rfl

theorem keyerPayload_eq (k : Option Keyer) : keyerPayload k = payload16
    [sent (k.map (·.output.code)), sent (k.bind fun x => x.active.map (·.state.code)),
      sent (k.bind fun x => x.staged.map (·.state.code)),
      sent (k.bind fun x => if x.output = .linger then some x.lingerCount else none)] := by
  cases k with
  | none => rfl
  | some k =>
    have code (w : Option ToneWord) : (w.map (·.state)).map ToneState.code = w.map (·.state.code) :=
      Option.map_map _ _ _
    simp only [keyerPayload, optCode, Option.map_some, Option.bind_some, code]
    rfl

theorem payload_context (c : Context) (k : Option Keyer) : c.payload k = payload16 (c.sentFields k) := by
  unfold Context.payload Context.sentFields
  rw [stepPayload_eq, keyerPayload_eq, u32_eq_payload, opt32_eq_payload]
  simp only [opt16_eq, flag16_eq, set16_eq, optCode_eq, payload16_append, payload16_cons, payload16_nil]
  simp only [List.append_assoc, List.append_nil]

theorem contextPayload_of_idle {s : State} {i : Slot} (h : s.ctx i = none) :
    s.contextPayload i = payload16 [i.val, 0, s.events.change[i].toNat] := by
  simp only [State.contextPayload, h]
  rfl

theorem contextPayload_of_record {s : State} {i : Slot} {c : Context} (h : s.ctx i = some c) :
    s.contextPayload i = payload16 ([i.val, c.state.code, s.events.change[i].toNat] ++
      c.sentFields (c.keyer.map s.keyer)) := by
  simp only [State.contextPayload, h, payload16_append, payload_context]
  rfl

/-! ## READ_CENSUS (R69) -/

theorem payload_entry (e : CensusEntry) (watched : Bool) :
    e.payload watched = payload16 (e.sentFields watched) := by
  have code : (e.decoded.map (·.2)).map ToneState.code = e.decoded.map fun x => x.2.code :=
    Option.map_map _ _ _
  simp only [CensusEntry.payload, CensusEntry.sentFields, u32_eq_payload, opt16_eq, flag16_eq,
    optCode_eq, code, payload16_append, payload16_cons, payload16_nil, List.append_assoc, List.append_nil]
  rfl

theorem queuePosition_eq (t : Tap) (q : List Tap) : queuePosition t q = (q.idxOf? t).map (· + 1) := by
  induction q with
  | nil => rfl
  | cons x xs ih =>
    rw [queuePosition, List.idxOf?_cons, ih]
    by_cases h : x = t <;> simp [h]

theorem censusPayload_eq (s : State) (t : Tap) (start count : Nat) :
    let listed := (s.tap t).census.filter fun e => decide (start ≤ e.tone.val)
    let returned := listed.take (min count 32)
    s.censusPayload t start count = payload16 (
      [t.val] ++ sentReading (s.tap t).latest ++ sentReading (s.tap t).prior ++
      [(s.tap t).census.length, (decide (s.tae.visit = some t)).toNat,
        sent ((s.tae.queue.idxOf? t).map (· + 1)), listed.length - returned.length, returned.length] ++
      returned.flatMap fun e => e.sentFields (s.watched t e.tone)) := by
  have visit : (s.tae.visit == some t) = decide (s.tae.visit = some t) := beq_eq_decide _ _
  simp only [State.censusPayload, payload_entry, payload16_append, payload16_flatMap, opt16_eq, flag16_eq,
    readingField_eq_payload, queuePosition_eq, visit, payload16_cons, payload16_nil, List.append_assoc,
    List.append_nil]

/-! ## READ_DEGREE (R140, R159, R176, R189) -/

theorem payload_degreeConfig (c : DegreeConfig) : c.payload = payload16
    (if c.present = true then
      [1, c.launch, c.dropTarget, c.fraction, c.floor, c.excursionLevel, c.tResp]
    else [0, 65535, 65535, 65535, 65535, 65535, 65535]) := by
  unfold DegreeConfig.payload
  split
  · rename_i h
    simp [DegreeConfig.values, h]
  · rfl

theorem payload_budget (b : Budget) : b.payload = payload16 b.sentFields := by
  cases hw : b.window with
  | none =>
    simp only [Budget.payload, Budget.sentFields, hw]
    rfl
  | some w =>
    simp only [Budget.payload, Budget.sentFields, hw, opt32_eq_payload, opt16_eq, optCode_eq,
      payload16_append, payload16_cons, payload16_nil, List.append_assoc, List.nil_append]
    rfl

theorem payload_guard (g : Guard) : ∃ wide : List Nat, wide.length = 2 ∧
    g.payload = payload16 (g.sentFields wide) := by
  cases hd : g.lastD with
  | none =>
    refine ⟨[0, 0], rfl, ?_⟩
    simp only [Guard.payload, Guard.sentFields, lastDField, hd, payload16_append, ← s32_eq_payload]
    rfl
  | some d =>
    refine ⟨halves (Config.wideLastD d).toNat, rfl, ?_⟩
    simp only [Guard.payload, Guard.sentFields, lastDField, hd, payload16_append, ← s32_eq_payload]
    split
    · simp only [s32_eq_payload]
      rfl
    · rw [bits32_eq_payload]
      rfl

theorem holdCount_eq (l : List Request) (level : Level) (hold : Request → Bool) :
    holdCount l level hold = l.countP fun r => r.level == level && hold r :=
  List.countP_eq_length_filter.symm

/-- A list padded to a length is read by its positions. -/
theorem range_map_getElem? {n : Nat} (l : List Nat) (v : Nat) :
    (List.range n).map (fun i => (l[i]?).getD v) = (l ++ List.replicate n v).take n := by
  refine List.ext_getElem (by simp) fun i h1 h2 => ?_
  simp only [List.length_map, List.length_range] at h1
  simp only [List.getElem_map, List.getElem_range, List.getElem_take]
  by_cases hi : i < l.length
  · simp [hi, List.getElem_append_left]
  · simp [List.getElem_append_right (Nat.not_lt.mp hi), hi]

theorem sentSlots_eq (c : LinkCommand) :
    ((List.range 16).flatMap fun n => opt16 (((c.entries[n]?).bind (·.slot)).map (·.val))) =
      payload16 c.sentSlots := by
  rw [LinkCommand.sentSlots, ← range_map_getElem?, payload16_map]
  refine List.flatMap_congr fun n _ => ?_
  rw [List.getElem?_map]
  cases c.entries[n]? <;> rfl

theorem commandPayload_of_none {l : Link} (h : l.command = none) :
    commandPayload l = payload16 (List.replicate 22 65535) := by
  simp only [commandPayload, h]
  rfl

theorem commandPayload_of_some {l : Link} {c : LinkCommand} (h : l.command = some c) :
    commandPayload l = payload16 ([c.kind.code, c.side.code, l.number.toNat, c.entries.length] ++
      c.sentSlots ++ [l.accepted.toNat, l.retry.toNat]) := by
  simp only [commandPayload, h, Option.map_some, Option.bind_some, sentSlots_eq, optCode_eq,
    payload16_append, payload16_cons, payload16_nil, List.append_assoc, List.append_nil]
  rfl

theorem payload_link (l : Link) : l.payload = payload16 l.sentFields := by
  cases h : l.command with
  | none =>
    simp only [Link.payload, Link.sentFields, commandPayload_of_none h, h, holdCount_eq, opt16_eq,
      payload16_append, payload16_cons, payload16_nil, List.flatMap_cons, List.flatMap_nil,
      List.append_assoc, List.append_nil]
  | some c =>
    simp only [Link.payload, Link.sentFields, commandPayload_of_some h, h, holdCount_eq, opt16_eq,
      payload16_append, payload16_cons, payload16_nil, List.flatMap_cons, List.flatMap_nil,
      List.append_assoc, List.append_nil]

theorem degreePayload_eq (s : State) (d : Degree) : ∃ wide : List Nat, wide.length = 2 ∧
    s.degreePayload d = payload16 (
      [d.val] ++
      (if s.present d = true then
        [1, (s.degreeCfg d).launch, (s.degreeCfg d).dropTarget, (s.degreeCfg d).fraction,
          (s.degreeCfg d).floor, (s.degreeCfg d).excursionLevel, (s.degreeCfg d).tResp]
      else [0, 65535, 65535, 65535, 65535, 65535, 65535]) ++
      (s.budget d).sentFields ++ (s.guard d).sentFields wide ++ (s.link d).sentFields ++
      [setField s.events.degree[d].members, setField s.events.link[d].members] ++
      sentReading (s.tap (lineOut d)).latest ++ sentReading (s.tap (lineOut d)).prior) := by
  obtain ⟨wide, hlen, hguard⟩ := payload_guard (s.guard d)
  refine ⟨wide, hlen, ?_⟩
  simp only [State.degreePayload, payload_degreeConfig, payload_budget, hguard, payload_link,
    readingField_eq_payload, State.present, set16_eq, payload16_append, payload16_cons, payload16_nil,
    List.append_assoc, List.append_nil]
  rfl

/-! ## TAKE_EVENTS and SET_ATTN_MASK (R187, R188) -/

theorem setField_ne_zero (m : List Bool) : (setField m != 0) = m.any id := by
  induction m with
  | nil => rfl
  | cons b m ih =>
    have hs : setField (b :: m) = b.toNat + 2 * setField m := rfl
    rw [hs, List.any_cons, ← ih]
    cases b <;> simp [bne]

theorem pendingClasses_members (s : State) : s.pendingClasses.members =
    [allSlots.any fun i => s.events.change[i],
      allDegrees.any fun d => setField s.events.degree[d].members != 0,
      allDegrees.any fun d => setField s.events.link[d].members != 0] := by
  simp only [setField_ne_zero]
  rfl

theorem any_eq_not_isEmpty_filter {α : Type} (l : List α) (p : α → Bool) :
    l.any p = !(l.filter p).isEmpty := by
  induction l with
  | nil => rfl
  | cons x l ih => cases h : p x <;> simp [h, ih]

theorem eventsPayload_eq (s : State) :
    let slots := allSlots.filter fun i => s.events.change[i]
    let degrees := allDegrees.map fun d => setField s.events.degree[d].members
    let links := allDegrees.map fun d => setField s.events.link[d].members
    s.eventsPayload = payload16 (
      [setField [!slots.isEmpty, degrees.any (· != 0), links.any (· != 0)], slots.length] ++
      slots.map Fin.val ++ degrees ++ links) := by
  simp only [State.eventsPayload, pendingClasses_members, any_eq_not_isEmpty_filter allSlots,
    payload16_append, payload16_map, List.any_map, set16_eq, payload16_cons, payload16_nil,
    List.append_assoc, List.nil_append]
  rfl

open State

theorem index?_eq_none {n v : Nat} (h : n ≤ v) : index? n v = none :=
  Option.eq_none_iff_forall_ne_some.mpr fun i hi => by
    have := index?_eq_some_iff.mp hi
    omega

/-- Settles O22: the record's fields in their order. -/
theorem readContextReturnsTheRecord : Obligations.ReadContextReturnsTheRecord := by
  intro p s hp hlen
  have hadm := running_refusal_of_run hp
  refine ⟨fun h => congrArg Host.Outcome.next (answer_of_body_error hadm hlen ?_), fun i hi => ?_⟩
  · simp only [readContextBody, index?_eq_none h]
  · have hbody (s : State) : readContextBody p s = .ok (s.contextPayload i, s) := by
      simp only [readContextBody, index?_eq_some_iff.mpr hi]
    refine ⟨fun hc => congrArg Host.Outcome.next ?_, fun c hc => congrArg Host.Outcome.next ?_⟩
    · rw [answer_of_body_ok hadm hlen (hbody _), contextPayload_of_idle (s := s.taken) hc]
      rfl
    · rw [answer_of_body_ok hadm hlen (hbody _), contextPayload_of_record (s := s.taken) hc]
      rfl

/-- Settles O23: the tap's fields, then those of the entries returned. -/
theorem readCensusReturnsTheList : Obligations.ReadCensusReturnsTheList := by
  intro p s hp hlen
  have hadm := running_refusal_of_run hp
  have refused_of {t : Tap} (ht : fieldAt p 0 = t.val) (h : s.present (tapDegree t) = false ∨ 255 < fieldAt p 1) :
      exec (.readCensus p) s = .next (s.refused .badField) := by
    refine congrArg Host.Outcome.next (answer_of_body_error hadm hlen ?_)
    have hno : (s.taken.scanned t && decide (fieldAt p 1 ≤ 255)) = false := by
      rcases h with h | h
      · have hs : s.taken.scanned t = false := h
        rw [hs]
        rfl
      · simp [h]
    simp only [readCensusBody, index?_eq_some_iff.mpr ht, hno]
    rfl
  refine ⟨fun h => ?_, fun v hv => ⟨fun h => refused_of hv (Or.inl h), fun hpres hstart => ?_⟩⟩
  · by_cases hb : 31 < fieldAt p 0
    · refine congrArg Host.Outcome.next (answer_of_body_error hadm hlen ?_)
      simp only [readCensusBody, index?_eq_none hb]
    · exact refused_of (t := ⟨fieldAt p 0, by omega⟩) rfl (Or.inr (h.resolve_left hb))
  · have hyes : (s.taken.scanned v && decide (fieldAt p 1 ≤ 255)) = true := by
      have hs : s.taken.scanned v = true := hpres
      rw [hs, decide_eq_true hstart]
      rfl
    have hbody : readCensusBody p s.taken =
        .ok (s.taken.censusPayload v (fieldAt p 1) (fieldAt p 2), s.taken) := by
      simp only [readCensusBody, index?_eq_some_iff.mpr hv, hyes, if_true]
    refine congrArg Host.Outcome.next ((answer_of_body_ok hadm hlen hbody).trans ?_)
    rw [censusPayload_eq]
    rfl

/-- Settles O24: the parts of the degree, each by its own layout. -/
theorem readDegreeReturnsTheDegree : Obligations.ReadDegreeReturnsTheDegree := by
  intro p s hp hlen
  have hadm : Admission.anytime.refusal s.part = none := by
    cases h : s.part
    · rfl
    · rfl
    · exact absurd h hp
  refine ⟨fun h => congrArg Host.Outcome.next (answer_of_body_error hadm hlen ?_), fun d hd => ?_⟩
  · simp only [readDegreeBody, index?_eq_none h]
  · obtain ⟨wide, hwide, hpayload⟩ := degreePayload_eq s d
    have hbody : readDegreeBody p s.taken = .ok (s.degreePayload d, s.taken) := by
      simp only [readDegreeBody, index?_eq_some_iff.mpr hd]
      rfl
    refine ⟨wide, hwide, congrArg Host.Outcome.next ?_⟩
    rw [answer_of_body_ok hadm hlen hbody, hpayload]

/-- Settles O25: the snapshot, and the flags cleared with ATTN as it stands. -/
theorem takeEventsReturnsAndClearsTheFlags : Obligations.TakeEventsReturnsAndClearsTheFlags := by
  intro s hp
  have hadm : Admission.anytime.refusal s.part = none := by
    cases h : s.part
    · rfl
    · rfl
    · exact absurd h hp
  refine congrArg Host.Outcome.next ((answer_of_body_ok hadm rfl (body := takeEventsBody) rfl).trans ?_)
  rw [eventsPayload_eq]
  rfl

/-- Settles O26: the new enable set with the pending classes. -/
theorem setAttnMaskReplacesTheSet : Obligations.SetAttnMaskReplacesTheSet := by
  intro p s hp hlen
  have nonzero (n : Nat) : (n != 0) = decide (n ≠ 0) := by
    rw [bne, beq_eq_decide, decide_not]
  have hbody : setMaskBody p s.taken = .ok (_, _) := rfl
  refine congrArg Host.Outcome.next
    ((answer_of_body_ok (running_refusal_of_run hp) hlen hbody).trans ?_)
  simp only [maskPayload, pendingClasses_members, set16_eq, nonzero]
  rfl

end Sys2Proof.Machine
end

section
/-! SUPPORT. A keyer that no record names stays as it is through every reaction and decision (R38, R45), and the
endings of CANCEL and of the deadline (R10, R23, R27). -/

namespace Sys2Proof.Machine

namespace State

variable {s t u : State} {k : KeyerNo}

/-- No record names the keyer. -/
def Unnamed (s : State) (k : KeyerNo) : Prop := ∀ j x, s.ctx j = some x → x.keyer ≠ some k

/-- A keyer that no record names is as it was, and still named by none. -/
def Spares (k : KeyerNo) (s t : State) : Prop := s.Unnamed k → t.Unnamed k ∧ t.keyer k = s.keyer k

theorem Spares.refl (k : KeyerNo) (s : State) : Spares k s s := fun h => ⟨h, rfl⟩

theorem Spares.trans (h1 : Spares k s t) (h2 : Spares k t u) : Spares k s u := fun h =>
  have ⟨hu, he⟩ := h1 h
  have ⟨hu', he'⟩ := h2 hu
  ⟨hu', he'.trans he⟩

theorem Spares.foldl {α : Type} {f : State → α → State} (h : ∀ s x, Spares k s (f s x)) (l : List α)
    (s : State) : Spares k s (l.foldl f s) := by
  induction l generalizing s with
  | nil => exact Spares.refl k s
  | cons x l ih => exact (h s x).trans (ih _)

theorem spares_of_same (hc : t.contexts = s.contexts) (hk : t.keyers = s.keyers) : Spares k s t := by
  refine fun h => ⟨fun j x hx => h j x ?_, keyer_of_keyers hk k⟩
  simpa only [ctx, hc] using hx

theorem Calm.spares (h : s.Calm t) : Spares k s t := by
  refine fun hu => ⟨fun j x hx => ?_, keyer_of_keyers h.keyers k⟩
  obtain ⟨c, hc, e⟩ := exists_of_sameSlot (hx ▸ h.records j)
  have hk : x.keyer = c.keyer := by rw [e]
  rw [hk]
  exact hu j c hc

theorem spares_modCtx (i : Slot) {f : Context → Context}
    (hf : ∀ c, (f c).keyer = c.keyer ∨ (f c).keyer = none) : Spares k s (s.modCtx i f) := by
  refine fun hu => ⟨fun j x hx => ?_, keyer_of_keyers (keyers_modCtx s i f) k⟩
  by_cases hj : j = i
  · subst hj
    cases hc : s.ctx j with
    | none =>
      rw [modCtx_of_none hc, hc] at hx
      cases hx
    | some c =>
      rw [ctx_modCtx_self s hc] at hx
      cases hx
      rcases hf c with h | h <;> rw [h]
      · exact hu j c hc
      · nofun
  · rw [ctx_modCtx_of_ne s hj] at hx
    exact hu j x hx

/-- A keyer that some record names is written. -/
theorem spares_setKeyer_of_named {i : Slot} {c : Context} {m : KeyerNo} (hc : s.ctx i = some c)
    (hm : c.keyer = some m) (v : Keyer) : Spares k s (s.setKeyer m v) := by
  refine fun hu => ⟨hu, ?_⟩
  have hne : m ≠ k := fun e => hu i c hc (e ▸ hm)
  rw [keyer_setKeyer, if_neg hne]

theorem spares_stageWord (s : State) (i : Slot) : Spares k s (s.stageWord i) := by
  unfold stageWord
  split
  · exact Spares.refl k s
  · rename_i c hc
    split
    · rename_i m st hm _
      split
      · exact spares_setKeyer_of_named hc hm _
      · exact Spares.refl k s
    · exact Spares.refl k s

theorem spares_lingerKeyer (s : State) (i : Slot) : Spares k s (s.lingerKeyer i) := by
  unfold lingerKeyer
  split
  · exact Spares.refl k s
  · rename_i c hc
    split
    · exact Spares.refl k s
    · exact spares_setKeyer_of_named hc ‹_› _

theorem spares_startKeyer (s : State) (i : Slot) : Spares k s (s.startKeyer i) := by
  unfold startKeyer
  split
  · exact Spares.refl k s
  · rename_i c hc
    split
    · exact Spares.refl k s
    · exact spares_setKeyer_of_named hc ‹_› _

theorem spares_releaseKeyer (s : State) (i : Slot) : Spares k s (s.releaseKeyer i) := by
  unfold releaseKeyer
  split
  · exact Spares.refl k s
  · rename_i c hc
    split
    · exact Spares.refl k s
    · exact (spares_setKeyer_of_named hc ‹_› _).trans (spares_modCtx i fun _ => Or.inr rfl)

theorem spares_changeState (s : State) (i : Slot) (st : CtxState) {f : Context → Context}
    (hf : ∀ c : Context, (f (c.enter st)).keyer = c.keyer) : Spares k s (s.changeState i st f) := by
  unfold changeState
  split
  · exact Spares.refl k s
  · rename_i c _
    split
    · have h1 : Spares k s ((s.modCtx i fun c => f (c.enter st)).stageWord i) :=
        (spares_modCtx i fun c => Or.inl (hf c)).trans (spares_stageWord _ i)
      have h2 : Spares k s (if st.clearsRequest then
          ((s.modCtx i fun c => f (c.enter st)).stageWord i).removeRequest i
          else (s.modCtx i fun c => f (c.enter st)).stageWord i) := by
        split
        · exact h1.trans (calm_removeRequest _ i).spares
        · exact h1
      dsimp only
      split
      · exact h2.trans (calm_evaluateGroupOf _ c).spares
      · exact h2
    · exact Spares.refl k s

theorem spares_commission (s : State) (i : Slot) : Spares k s (s.commission i) :=
  (spares_changeState s i _ fun _ => rfl).trans (spares_lingerKeyer _ i)

theorem spares_markChange (s : State) (i : Slot) : Spares k s (s.markChange i) := by
  unfold markChange
  split
  · exact Spares.refl k s
  · exact spares_of_same rfl rfl

theorem spares_release (s : State) (i : Slot) : Spares k s (s.release i) :=
  ((spares_modCtx i (f := fun c => { c with answerHold := some .released }) fun _ => Or.inl rfl).trans
    (spares_startKeyer _ i)).trans (spares_markChange _ i)

theorem spares_partnerOfSettledTail (s : State) (p : Slot) : Spares k s (s.partnerOfSettledTail p) := by
  unfold partnerOfSettledTail
  split
  · exact Spares.refl k s
  · split
    · split
      · exact spares_release s p
      · exact Spares.refl k s
    · split
      · exact spares_commission s p
      · exact Spares.refl k s
    · exact Spares.refl k s
    · exact Spares.refl k s

theorem spares_afterSettled (s : State) (i : Slot) : Spares k s (s.afterSettled i) := by
  unfold afterSettled
  split
  · exact Spares.refl k s
  · split
    · split
      · exact Spares.refl k s
      · exact spares_partnerOfSettledTail s _
    · split
      · exact spares_commission s i
      · exact Spares.refl k s
    · split
      · exact spares_commission s i
      · exact Spares.refl k s
    · exact Spares.refl k s

theorem spares_settle (s : State) (i : Slot) (limit : Option Limit) : Spares k s (s.settle i limit) :=
  (spares_changeState s i _ fun _ => rfl).trans (spares_afterSettled _ i)

theorem spares_withdraw (s : State) (i : Slot) (cause : Ending) : Spares k s (s.withdraw i cause) :=
  (spares_changeState s i _ fun _ => rfl).trans (calm_postWithdrawal _ i).spares

theorem spares_endContext (s : State) (i : Slot) (outcome : Ending) : Spares k s (s.endContext i outcome) :=
  (spares_releaseKeyer s i).trans (spares_changeState _ i _ fun _ => rfl)

theorem spares_partnerEnded (s : State) (p : Slot) : Spares k s (s.partnerEnded p) := by
  unfold partnerEnded
  split
  · exact Spares.refl k s
  · split
    · split
      · exact spares_endContext s p _
      · exact spares_withdraw s p _
      · exact spares_withdraw s p _
      · exact spares_withdraw s p _
      · exact spares_withdraw s p _
      all_goals exact Spares.refl k s
    · exact Spares.refl k s

/-! ## Decisions -/

theorem spares_send (s : State) (d : Degree) (cmd : LinkCommand) : Spares k s (s.send d cmd) :=
  spares_of_same rfl rfl

theorem spares_grantSingle (s : State) (d : Degree) (i : Slot) (step : StepInFlight) :
    Spares k s (s.grantSingle d i step) := by
  unfold grantSingle
  split
  · exact Spares.refl k s
  · rename_i c _
    have h1 : Spares k s ((s.takeRequest d (.single i)).reserve d step.charge) := spares_of_same rfl rfl
    have h2 := h1.trans (spares_modCtx i (f := fun c => { c with step := some step }) fun _ => Or.inl rfl)
    have h3 := h2.trans (spares_send _ d
      { kind := step.kind.command, side := c.side, entries := [.carrying i c step] })
    have h4 := h3.trans (calm_syncHolds _ i).spares
    dsimp only
    split
    · exact h4.trans (spares_changeState _ i .opening fun _ => rfl)
    all_goals exact h4

theorem spares_grantGroup (s : State) (d : Degree) (g : Nat) (entries : List GroupEntry) (size : Nat)
    (charged : Bool) : Spares k s (s.grantGroup d g entries size charged) := by
  unfold grantGroup
  have h1 : Spares k s ((s.takeRequest d (.group g)).reserve d
      (if charged then groupCharge entries size else 0)) := spares_of_same rfl rfl
  have h2 := h1.trans (Spares.foldl (f := fun s e => s.modCtx e.slot fun c =>
    { c with step := some (groupStep e size charged), groupEntry := false })
    (fun s e => spares_modCtx e.slot (f := fun c =>
      { c with step := some (groupStep e size charged), groupEntry := false })
      fun _ => Or.inl rfl) entries _)
  exact (h2.trans (spares_send _ d _)).trans
    (Spares.foldl (fun s e => (calm_syncHolds s e.slot).spares) entries _)

theorem spares_offerSingle (s : State) (d : Degree) (i : Slot) (c : Context) (kind : StepKind)
    (dir : Option Direction) (size : Nat) (charge : Nat → Nat) :
    Spares k s (s.offerSingle d i c kind dir size charge) := by
  unfold offerSingle
  split
  · split
    · exact spares_grantSingle s d i _
    · exact spares_grantSingle s d i _
    · exact (calm_holdForBudget s d _ _).spares
  · exact spares_grantSingle s d i _

theorem spares_reachSingle (s : State) (d : Degree) (i : Slot) (kind : ReqKind) (charge : Nat) :
    Spares k s (s.reachSingle d i kind charge) := by
  unfold reachSingle
  split
  · exact Spares.refl k s
  · split
    · split
      · exact spares_offerSingle s d i _ _ _ _ _
      · split
        · exact (calm_removeRequest s i).spares.trans (spares_settle _ i _)
        · exact spares_offerSingle s d i _ _ _ _ _
      · exact spares_offerSingle s d i _ _ _ _ _
      · exact spares_grantSingle s d i _
      · exact spares_grantSingle s d i _
    · exact Spares.refl k s

theorem spares_dropSettled (s : State) (d : Degree) (g : Nat) (entries : List GroupEntry) :
    Spares k s (s.dropSettled d g entries) := by
  unfold dropSettled
  split
  · exact Spares.refl k s
  · refine (calm_setGroup s d g _).spares.trans (Spares.foldl (fun t e => ?_) entries _)
    split
    · exact Spares.refl k t
    · exact spares_settle t _ _

theorem spares_offerGroup (s : State) (d : Degree) (g : Nat) (kept : List GroupEntry) :
    Spares k s (s.offerGroup d g kept) := by
  unfold offerGroup
  split
  · exact Spares.refl k s
  · split
    · exact spares_grantGroup s d g _ _ _
    · exact spares_grantGroup s d g _ _ _
    · exact (calm_holdForBudget s d _ _).spares

theorem spares_reach (s : State) (d : Degree) (r : Request) : Spares k s (s.reach d r) := by
  unfold reach
  split
  · exact Spares.refl k s
  · split
    · exact (calm_holdForGuard s d _ _).spares
    · split
      · exact spares_reachSingle s d _ _ _
      · exact (spares_dropSettled s d _ _).trans (spares_offerGroup _ d _ _)

theorem spares_decision (s : State) (d : Degree) (keys : List ReqKey) : Spares k s (s.decision d keys) := by
  induction keys generalizing s with
  | nil => exact Spares.refl k s
  | cons key ks ih =>
    unfold decision
    split
    · split
      · exact (spares_reach s d _).trans (ih _)
      · exact ih s
    all_goals exact Spares.refl k s

theorem spares_decisions (s : State) (d : Degree) (n : Nat) : Spares k s (s.decisions d n) := by
  induction n generalizing s with
  | zero => exact Spares.refl k s
  | succ n ih =>
    unfold decisions
    split
    · exact (spares_decision s d _).trans (ih _)
    · exact Spares.refl k s

theorem spares_arbitrate (s : State) : Spares k s s.arbitrate := by
  unfold arbitrate
  split
  · exact Spares.foldl (fun s d => spares_decisions s d 66) _ s
  · exact Spares.refl k s

theorem spares_couple (s : State) (i : Slot) : Spares k s (s.couple i) := by
  unfold couple
  split
  · exact Spares.refl k s
  · exact (spares_partnerEnded s _).trans (spares_arbitrate _)

theorem spares_withdrawFully (s : State) (i : Slot) (cause : Ending) :
    Spares k s (s.withdrawFully i cause) :=
  ((spares_withdraw s i cause).trans (spares_arbitrate _)).trans (spares_couple _ i)

/-- R45: the keyer released is free, and named by none if the other records do not name it. -/
theorem releaseKeyer_frees {i : Slot} {c : Context} (hc : s.ctx i = some c) (hk : c.keyer = some k)
    (hothers : ∀ j x, j ≠ i → s.ctx j = some x → x.keyer ≠ some k) :
    (s.releaseKeyer i).Unnamed k ∧ (s.releaseKeyer i).keyer k = Keyer.free := by
  have hrel : s.releaseKeyer i =
      (s.setKeyer k Keyer.free).modCtx i fun c => { c with keyer := none } := by
    simp only [releaseKeyer, hc, hk]
  rw [hrel]
  refine ⟨fun j x hx => ?_, ?_⟩
  · by_cases hj : j = i
    · subst hj
      rw [ctx_modCtx_self (s.setKeyer k Keyer.free) (c := c) hc] at hx
      cases hx
      nofun
    · rw [ctx_modCtx_of_ne _ hj] at hx
      exact hothers j x hj hx
  · rw [keyer_of_keyers (keyers_modCtx _ i _), keyer_setKeyer_self]

theorem releaseKeyer_self {i : Slot} {c : Context} (hc : s.ctx i = some c) :
    (s.releaseKeyer i).ctx i = some { c with keyer := none } := by
  cases hk : c.keyer with
  | none =>
    have hrel : s.releaseKeyer i = s := by simp only [releaseKeyer, hc, hk]
    rw [hrel, hc, ← hk]
  | some k =>
    have hrel : s.releaseKeyer i =
        (s.setKeyer k Keyer.free).modCtx i fun c => { c with keyer := none } := by
      simp only [releaseKeyer, hc, hk]
    rw [hrel, ctx_modCtx_self (s.setKeyer k Keyer.free) (c := c) hc]

theorem frees_of_spares {i : Slot} {c : Context} (hc : s.ctx i = some c)
    (h : ∀ k, Spares k (s.releaseKeyer i) t) : s.Frees t i c := by
  intro k hk hothers
  obtain ⟨hu, hf⟩ := releaseKeyer_frees hc hk hothers
  exact (h k hu).2.trans hf

theorem frees_endFully {i : Slot} {c : Context} (hc : s.ctx i = some c) (outcome : Ending) :
    s.Frees (s.endFully i outcome) i c :=
  frees_of_spares hc fun _ =>
    ((spares_changeState _ i .ended fun _ => rfl).trans (spares_arbitrate _)).trans (spares_couple _ i)

theorem frees_withdrawFully {i : Slot} {c : Context} (hc : s.ctx i = some c) (cause : Ending) :
    s.Frees ((s.releaseKeyer i).withdrawFully i cause) i c :=
  frees_of_spares hc fun _ => spares_withdrawFully _ i cause

/-! ## What a decision leaves of a record -/

theorem MovesBy.record {R : Context → Context → Prop} (h : s.MovesBy R t) {i : Slot} {c d : Context}
    (hc : s.ctx i = some c) (hd : t.ctx i = some d) : R c d := by
  have e := h.records i
  rw [hc, hd] at e
  exact e

/-- R12: a record whose state has changed has its flag. -/
theorem MovesBy.flagged {R : Context → Context → Prop} (h : s.MovesBy R t) (hp : s.part ≠ .restarting)
    {i : Slot} {c d : Context} (hc : s.ctx i = some c) (hd : t.ctx i = some d) (hne : d.state ≠ c.state) :
    t.events.change[i] = true := by
  refine (h.marks hp i).2.resolve_left fun e => hne ?_
  rw [hc, hd] at e
  simp only [Option.map_some, Option.some.injEq, Context.shown, Prod.mk.injEq] at e
  exact e.1

theorem leadsTo_ended {c : Context} (h : c.state = .armed ∨ c.state = .adopting) :
    c.state.leadsTo .ended = true := by
  rcases h with h | h <;> rw [h] <;> rfl

theorem leadsTo_withdrawing {c : Context} (h : c.state = .opening ∨ c.state = .following ∨
    c.state = .ramping ∨ c.state = .settled ∨ c.state = .lost) : c.state.leadsTo .withdrawing = true := by
  rcases h with h | h | h | h | h <;> rw [h] <;> rfl

/-- R10: an ending, with what the context it ends keeps. -/
theorem endFully_spec {i : Slot} {c : Context} (hp : s.part ≠ .restarting) (hc : s.ctx i = some c)
    (h : c.state = .armed ∨ c.state = .adopting) (outcome : Ending) :
    (s.endFully i outcome).still = s.still ∧ ∃ d, (s.endFully i outcome).ctx i = some d ∧
      d.state = .ended ∧ d.outcome = some outcome ∧
      d.portClosed = some (c.atten == .blocked && outcome != .adoptFailed) ∧ d.keyer = none ∧
      d.identity = c.identity ∧ d.partner = c.partner ∧ (s.endFully i outcome).events.change[i] = true := by
  have hd := decides_endFully s i outcome
  obtain ⟨d, hself, hst, hout, hport, hkey⟩ := endFully_self s hc (leadsTo_ended h) outcome
  have hturns := (hd.record hc hself).toEvolves
  have hne : d.state ≠ c.state := by rcases h with h | h <;> rw [hst, h] <;> nofun
  exact ⟨hd.still, d, hself, hst, hout, hport, hkey, hturns.identity, hturns.partner,
    hd.flagged hp hc hself hne⟩

/-- R9: a withdrawal, with what the context withdrawn keeps. -/
theorem withdrawFully_spec {i : Slot} {c : Context} (hp : s.part ≠ .restarting) (hc : s.ctx i = some c)
    (hl : c.state.leadsTo .withdrawing = true) (hne : c.state ≠ .withdrawing) (cause : Ending) :
    (s.withdrawFully i cause).still = s.still ∧ ∃ d, (s.withdrawFully i cause).ctx i = some d ∧
      d.state = .withdrawing ∧ d.cause = some cause ∧ d.keyer = c.keyer ∧ c.Turns d ∧
      (s.withdrawFully i cause).events.change[i] = true := by
  have hd := decides_withdrawFully s i cause
  obtain ⟨d, hself, hst, hcause, hkey⟩ := withdrawFully_self s hc hl cause
  exact ⟨hd.still, d, hself, hst, hcause, hkey, hd.record hc hself,
    hd.flagged hp hc hself (by rw [hst]; exact Ne.symm hne)⟩

end State

open State

theorem still_accepted (s t : State) (h : t.still = s.taken.still) (r : List Byte) :
    (t.accepted r).still = { s.still with buffer := .pending .ok r } := by
  have hs : s.taken.still = s.still := rfl
  rw [← hs, ← h]
  rfl

theorem exec_cancel (p : List Byte) (s : State) :
    exec (.cancel p) s = .next (s.answer .running 2 p (cancelRecord p)) := rfl

/-- Settles O20: each state by the ending or withdrawal that CANCEL begins. -/
theorem cancelActsByTheState : Obligations.CancelActsByTheState := by
  intro p s hrun hlen
  have hadm := running_refusal_of_run hrun
  have hp : s.taken.part ≠ .restarting := by
    show s.part ≠ _
    rw [hrun]
    nofun
  rw [exec_cancel]
  refine ⟨fun h => ?_, fun i hi => ⟨fun hc => ?_, fun c hc => ?_⟩⟩
  · rw [answer_of_body_error hadm hlen]
    simp only [cancelRecord, index?_eq_none h]
  · have hc' : s.taken.ctx i = none := hc
    rw [answer_of_body_error hadm hlen]
    simp only [cancelRecord, index?_eq_some_iff.mpr hi, hc']
  · have hc' : s.taken.ctx i = some c := hc
    have hi' := index?_eq_some_iff.mpr hi
    refine ⟨fun h => ?_, fun h => ?_, fun h => ?_, fun h => ?_, fun h => ?_⟩
    · rw [answer_of_body_error hadm hlen]
      simp only [cancelRecord, hi', hc', h]
    · rw [answer_of_body_ok hadm hlen]
      simp only [cancelRecord, hi', hc', h]
    · have hbody : cancelRecord p s.taken = .ok ([], s.taken.endFully i .cancelled) := by
        rcases h with h | h <;> simp only [cancelRecord, hi', hc', h]
      obtain ⟨hstill, d, hd, hst, hout, hport, hkey, hid, hpart, hflag⟩ :=
        endFully_spec hp hc' h .cancelled
      have hdark : (c.atten == .blocked && Ending.cancelled != .adoptFailed) = decide (c.atten = .blocked) := by
        rw [beq_eq_decide, show (Ending.cancelled != .adoptFailed) = true from rfl, Bool.and_true]
      rw [answer_of_body_ok hadm hlen hbody]
      exact ⟨_, d, rfl, still_accepted s _ hstill [], hd, hst, hout, hdark ▸ hport, hkey,
        frees_endFully hc' .cancelled, hid, hpart, hflag⟩
    · have hbody : cancelRecord p s.taken = .ok ([], s.taken.withdrawFully i .cancelled) := by
        rcases h with h | h | h | h | h <;> simp only [cancelRecord, hi', hc', h]
      have hne : c.state ≠ .withdrawing := by rcases h with h | h | h | h | h <;> rw [h] <;> nofun
      obtain ⟨hstill, d, hd, hst, hcause, -, hturns, hflag⟩ :=
        withdrawFully_spec hp hc' (leadsTo_withdrawing h) hne .cancelled
      rw [answer_of_body_ok hadm hlen hbody]
      exact ⟨_, d, rfl, still_accepted s _ hstill [], hd, hst, hcause, hturns.identity, hturns.atten, hflag⟩
    · have hbody : cancelRecord p s.taken =
          .ok ([], (s.taken.releaseKeyer i).withdrawFully i .cancelled) := by
        simp only [cancelRecord, hi', hc', h]
      have hrel := reacts_releaseKeyer s.taken i
      have hx := releaseKeyer_self hc'
      have hkx : c.Turns { c with keyer := none } := by
        have e := hrel.records i
        rw [hc', hx] at e
        exact e
      obtain ⟨hstill, d, hd, hst, hcause, hkey, hturns, hflag⟩ := withdrawFully_spec
        (s := s.taken.releaseKeyer i) (by rw [part_of_still hrel.still]; exact hp) hx
        (by show c.state.leadsTo _ = _; rw [h]; rfl) (by show c.state ≠ _; rw [h]; nofun) .cancelled
      have hall := Context.Turns.trans _ _ _ hkx hturns
      rw [answer_of_body_ok hadm hlen hbody]
      refine ⟨_, d, rfl, still_accepted s _ (hstill.trans hrel.still) [], hd, hst, hcause,
        hall.identity, ?_, frees_withdrawFully hc' .cancelled, fun hf => ?_, hflag⟩
      · rw [hkey]
      · exact hall.frozen hf (by rw [h]; nofun)

/-- R27: the deadline of a record expires in RUN, while the record counts. -/
theorem deadlineMet_iff {s : State} {i : Slot} {c : Context} (hrun : s.part = .run) (hc : s.ctx i = some c) :
    s.deadlineMet i = true ↔ c.counting = true ∧ c.elapsed = c.deadline := by
  simp [deadlineMet, hrun, hc]

theorem exec_deadlineExpiry (i : Slot) (s : State) :
    exec (.deadlineExpiry i) s = .next (if s.deadlineMet i then s.expireDeadline i else s) := rfl

/-- Settles O37: each state by the ending or withdrawal that the deadline begins. -/
theorem deadlineExpiryActsByTheState : Obligations.DeadlineExpiryActsByTheState := by
  intro s i
  rw [exec_deadlineExpiry]
  refine ⟨fun h => ?_, fun h => ?_, fun c hrun hc => ⟨fun h => ?_, fun hel hf => ⟨fun h => ?_, fun h => ?_⟩⟩⟩
  · rw [if_neg]
    simp [deadlineMet, h]
  · rw [if_neg]
    simp [deadlineMet, h]
  · by_cases hm : s.deadlineMet i = true
    · rw [if_pos hm]
      obtain ⟨hcount, hel⟩ := (deadlineMet_iff hrun hc).mp hm
      obtain ⟨h1, h2, h3⟩ := (counting_iff c).mp hcount
      rcases h with h | h | h | h | h
      · exact absurd hel h
      · rw [h3] at h
        cases h
      · exact absurd h h1
      · exact absurd h h2
      · simp only [expireDeadline, hc, h]
    · rw [if_neg hm]
  · have hp : s.part ≠ .restarting := by
      rw [hrun]
      nofun
    have hcount : c.counting = true := by
      rw [counting_iff]
      rcases h with h | h <;> rw [h] <;> exact ⟨nofun, nofun, hf⟩
    rw [if_pos ((deadlineMet_iff hrun hc).mpr ⟨hcount, hel⟩)]
    have hexp : s.expireDeadline i =
        s.endFully i (if c.state = .armed then .deadline else .adoptFailed) := by
      rcases h with h | h <;> simp [expireDeadline, hc, h]
    obtain ⟨hstill, d, hd, hst, hout, hport, hkey, hid, -, hflag⟩ :=
      endFully_spec hp hc h (if c.state = .armed then .deadline else .adoptFailed)
    rw [hexp]
    refine ⟨_, d, rfl, hstill, hd, hst, hout, ?_, hkey, hid, hflag⟩
    rw [hport]
    rcases h with h | h <;> simp [h, beq_eq_decide]
  · have hp : s.part ≠ .restarting := by
      rw [hrun]
      nofun
    have hcount : c.counting = true := by
      rw [counting_iff]
      rcases h with h | h | h | h | h <;> rw [h] <;> exact ⟨nofun, nofun, hf⟩
    have hne : c.state ≠ .withdrawing := by rcases h with h | h | h | h | h <;> rw [h] <;> nofun
    have hexp : s.expireDeadline i = s.withdrawFully i .deadline := by
      rcases h with h | h | h | h | h <;> simp only [expireDeadline, hc, h]
    obtain ⟨hstill, d, hd, hst, hcause, -, hturns, hflag⟩ :=
      withdrawFully_spec hp hc (leadsTo_withdrawing h) hne .deadline
    rw [if_pos ((deadlineMet_iff hrun hc).mpr ⟨hcount, hel⟩), hexp]
    exact ⟨_, d, rfl, hstill, hd, hst, hcause, hturns.identity, hturns.atten, hflag⟩

end Sys2Proof.Machine
end

section
/-! SUPPORT. FREE (R24): the record that goes, its keyer, its partner and its link. -/

namespace Sys2Proof.Machine

namespace State

variable {s t : State} {i : Slot} {c : Context}

/-- The record of a slot gone, before its group is evaluated. -/
def removed (i : Slot) (s : State) : State :=
  (((s.releaseKeyer i).unbind i).forgetEntries i).putRecord i none

theorem freeRecord_eq (hc : s.ctx i = some c) : s.freeRecord i =
    if c.live then (s.removed i).evaluateGroupOf c else s.removed i := by
  simp only [freeRecord, hc]
  rfl

/-! ## The keyer released -/

theorem writes_releaseKeyer (s : State) (i : Slot) : s.Writes (s.releaseKeyer i) := by
  unfold releaseKeyer
  split
  · exact Writes.refl s
  · split
    · exact Writes.refl s
    · rename_i k _
      exact Writes.trans (t := s.setKeyer k Keyer.free) ⟨rfl, rfl, rfl⟩ (writes_modCtx _ i _)

theorem releaseKeyer_off (s : State) {j : Slot} (h : j ≠ i) : (s.releaseKeyer i).ctx j = s.ctx j := by
  unfold releaseKeyer
  split
  · rfl
  · split
    · rfl
    · exact ctx_modCtx_of_ne _ h _

theorem keyer_releaseKeyer_eq (hc : s.ctx i = some c) (k : KeyerNo) :
    (s.releaseKeyer i).keyer k = if c.keyer = some k then Keyer.free else s.keyer k := by
  unfold releaseKeyer
  rw [hc]
  dsimp only
  split
  · rename_i hk
    rw [hk]
    rfl
  · rename_i m hm
    rw [keyer_of_keyers (keyers_modCtx _ i _), keyer_setKeyer, hm]
    simp only [Option.some.injEq]

/-! ## The record removed -/

theorem ctx_removed_eq (hc : s.ctx i = some c) (j : Slot) : (s.removed i).ctx j =
    if i = j then none else (s.ctx j).map fun x => x.leftBy j i c.partner := by
  unfold removed
  rw [ctx_removed, releaseKeyer_self hc]
  split
  · rfl
  · rename_i h
    rw [releaseKeyer_off s (Ne.symm h)]
    rfl

theorem still_removed (s : State) (i : Slot) : (s.removed i).still = s.still :=
  (still_putRecord _ i none).trans ((still_forgetEntries _ i).trans
    ((still_unbind _ i).trans (writes_releaseKeyer s i).still))

theorem budgets_removed (s : State) (i : Slot) : (s.removed i).budgets = s.budgets :=
  (budgets_putRecord _ i none).trans ((budgets_forgetEntries _ i).trans
    ((budgets_unbind _ i).trans (writes_releaseKeyer s i).budgets))

theorem keyers_removed (s : State) (i : Slot) : (s.removed i).keyers = (s.releaseKeyer i).keyers :=
  (keyers_putRecord _ i none).trans ((keyers_forgetEntries _ i).trans (keyers_unbind _ i))

theorem keyer_removed (hc : s.ctx i = some c) (k : KeyerNo) :
    (s.removed i).keyer k = if c.keyer = some k then Keyer.free else s.keyer k := by
  rw [keyer_of_keyers (keyers_removed s i), keyer_releaseKeyer_eq hc]

theorem link_removed (hc : s.ctx i = some c) (d : Degree) :
    (s.removed i).link d = if d = c.link then (s.link d).forgetting i else s.link d := by
  have hself : (s.releaseKeyer i).ctx i = some { c with keyer := none } := releaseKeyer_self hc
  unfold removed
  rw [link_of_links (links_putRecord _ i none), link_unbind_forgetEntries hself,
    link_of_links (writes_releaseKeyer s i).links]
  rfl

/-- R12: a record that goes has its flag. -/
theorem change_removed (hp : s.part ≠ .restarting) (hc : s.ctx i = some c) :
    (s.removed i).events.change[i] = true := by
  have hstill := (still_forgetEntries _ i).trans ((still_unbind _ i).trans (writes_releaseKeyer s i).still)
  have hp' : (((s.releaseKeyer i).unbind i).forgetEntries i).part ≠ .restarting := by
    rwa [part_of_still hstill]
  unfold removed
  rw [change_putRecord_of_ne hp']
  · simp
  · rw [ctx_forgetEntries, ctx_unbind, releaseKeyer_self hc]
    nofun

/-- R172: a link that forgets a record has the requests and the state it had. -/
theorem decided_removed (hc : s.ctx i = some c) (h : s.Decided) : (s.removed i).Decided := by
  intro d
  have hd := h d
  unfold decisionDue at hd ⊢
  rw [link_removed hc]
  split <;> exact hd

theorem removed_eq (s : State) (i : Slot) : s.removed i =
    { s with contexts := (s.removed i).contexts, keyers := (s.removed i).keyers
             links := (s.removed i).links, events := (s.removed i).events } := by
  conv_lhs => rw [eq_of_still (still_removed s i)]
  rw [budgets_removed]

theorem keyers_of_keyer {a b : State} (h : ∀ k, a.keyer k = b.keyer k) : a.keyers = b.keyers :=
  Vector.ext fun k hk => h ⟨k, hk⟩

/-- What a decision leaves of a slot in IDLE. -/
theorem MovesBy.idle {R : Context → Context → Prop} (h : s.MovesBy R t) (hi : s.ctx i = none) :
    t.ctx i = none := by
  have e := h.records i
  rw [hi] at e
  cases ht : t.ctx i with
  | none => rfl
  | some x => rw [ht] at e; exact e.elim

theorem MovesBy.exists_record {R : Context → Context → Prop} (h : s.MovesBy R t) {x : Context}
    (hi : s.ctx i = some x) : ∃ y, t.ctx i = some y ∧ R x y := by
  have e := h.records i
  rw [hi] at e
  cases ht : t.ctx i with
  | none => rw [ht] at e; exact e.elim
  | some y => rw [ht] at e; exact ⟨y, rfl, e⟩

theorem decides_freed (s : State) (i : Slot) (c : Context) : (s.removed i).Decides
    (if c.live then (s.removed i).evaluateGroupOf c else s.removed i).arbitrate := by
  split
  · exact (calm_evaluateGroupOf _ c).decides.trans (decides_arbitrate _)
  · exact decides_arbitrate _

end State

open State

theorem exec_free (p : List Byte) (s : State) :
    exec (.free p) s = .next (s.answer .running 2 p (freeSlot p)) := rfl

/-- Settles O21: an ENDED record is removed and nothing is due; a COMMISSIONED one gives its keyer back, and
its group and the arbiters react. -/
theorem freeReturnsTheSlotToIdle : Obligations.FreeReturnsTheSlotToIdle := by
  intro p s hrun hlen
  have hadm := running_refusal_of_run hrun
  have hp : s.taken.part ≠ .restarting := by
    show s.part ≠ _
    rw [hrun]
    nofun
  rw [exec_free]
  refine ⟨fun h => ?_, fun i hi => ⟨fun hc => ?_, fun c hc => ?_⟩⟩
  · rw [answer_of_body_error hadm hlen]
    simp only [freeSlot, index?_eq_none h]
  · have hc' : s.taken.ctx i = none := hc
    rw [answer_of_body_error hadm hlen]
    simp only [freeSlot, index?_eq_some_iff.mpr hi, hc']
  · have hc' : s.taken.ctx i = some c := hc
    have hi' := index?_eq_some_iff.mpr hi
    have hbody (h : c.state = .ended ∨ c.state = .commissioned) :
        freeSlot p s.taken = .ok ([], (if c.live then (s.taken.removed i).evaluateGroupOf c
          else s.taken.removed i).arbitrate) := by
      rw [← freeRecord_eq hc']
      rcases h with h | h <;> simp only [freeSlot, hi', hc', h]
    refine ⟨fun h1 h2 => ?_, fun h hk hdec => ?_, fun h => ?_⟩
    · rw [answer_of_body_error hadm hlen]
      simp only [freeSlot, hi', hc']
      cases hst : c.state <;> simp_all
    · have hlive : c.live = false := by rw [Context.live, h]; rfl
      have hbody' : freeSlot p s.taken = .ok ([], s.taken.removed i) := by
        have hdue : (s.taken.removed i).arbitrate = s.taken.removed i :=
          arbitrate_of_not_due _ (decided_removed (s := s.taken) hc' hdec)
        rw [hbody (Or.inl h), hlive, if_neg nofun, hdue]
      have hkeys : (s.taken.removed i).keyers = s.taken.keyers := keyers_of_keyer fun k => by
        rw [keyer_removed hc', hk, if_neg nofun]
      rw [answer_of_body_ok hadm hlen hbody']
      refine ⟨_, rfl, ?_, ?_, fun j hj => ?_, link_removed hc', change_removed hp hc'⟩
      · have e := removed_eq s.taken i
        rw [hkeys] at e
        exact congrArg (State.accepted · []) e
      · exact (ctx_removed_eq hc' i).trans (if_pos rfl)
      · exact (ctx_removed_eq hc' j).trans (if_neg (Ne.symm hj))
    · have hlive : c.live = true := by rw [Context.live, h]; rfl
      have hd := decides_freed s.taken i c
      rw [answer_of_body_ok hadm hlen (hbody (Or.inr h))]
      have hgone : (s.taken.removed i).ctx i = none := (ctx_removed_eq hc' i).trans (if_pos rfl)
      have hp' : (s.taken.removed i).part ≠ .restarting := by
        rwa [part_of_still (still_removed s.taken i)]
      refine ⟨_, rfl, still_accepted s _ (hd.still.trans (still_removed _ i)) [], hd.idle hgone,
        (hd.marks hp' i).1 (change_removed hp hc'), fun j x hj hpj hx hxp => ?_, fun hg hdec => ?_⟩
      · have hleft : (s.taken.removed i).ctx j = some { x with partner := none } := by
          have hx' : s.taken.ctx j = some x := hx
          rw [ctx_removed_eq hc', if_neg (Ne.symm hj), hx', Option.map_some, Context.leftBy,
            if_pos ⟨hpj, hxp⟩]
        obtain ⟨y, hy, hturns⟩ := hd.exists_record hleft
        exact ⟨y, hy, hturns.partner, hturns.identity⟩
      · have hdue : (if c.live then (s.taken.removed i).evaluateGroupOf c
            else s.taken.removed i).arbitrate = s.taken.removed i := by
          rw [hlive, if_pos rfl, evaluateGroupOf, hg]
          exact arbitrate_of_not_due _ (decided_removed (s := s.taken) hc' hdec)
        rw [hdue]
        refine ⟨congrArg (State.accepted · []) (removed_eq s.taken i), fun j hj => ?_,
          keyer_removed hc', link_removed hc'⟩
        exact (ctx_removed_eq hc' j).trans (if_neg (Ne.symm hj))

end Sys2Proof.Machine
end

section
/-! SUPPORT. The first windows (R131, R183, R184), CONFIGURE, RESTART and the return to RUN. -/

namespace Sys2Proof.Machine

namespace State

variable {s t : State}

/-! ## Links that a record's flags leave alone -/

theorem links_syncLink (s : State) (d : Degree) : (s.syncLink d).links = s.links := by
  unfold syncLink
  generalize allSlots = l
  induction l generalizing s with
  | nil => rfl
  | cons i l ih =>
    rw [List.foldl_cons, ih]
    split
    · exact links_modCtx s i _
    · rfl

theorem syncLink_of_idle (h : ∀ i, s.ctx i = none) (d : Degree) : s.syncLink d = s := by
  unfold syncLink
  generalize allSlots = l
  induction l with
  | nil => rfl
  | cons i l ih =>
    rw [List.foldl_cons, h i]
    exact ih

theorem setLink_self (s : State) (d : Degree) : s.setLink d (s.link d) = s := by
  have e : s.links.set d.val (s.link d) = s.links := Vector.set_getElem_self _
  unfold setLink
  rw [e]

/-! ## Windows that start on a part without records and requests -/

/-- The window that starts on a degree. -/
def windowAt (s : State) (d : Degree) (cause : StartCause) : Window :=
  Window.start s.cfg (s.degreeCfg d) cause (readPower (s.tap (lineOut d)).latest)

theorem modRequests_of_idle (hctx : ∀ i, s.ctx i = none) {d : Degree} (hreq : (s.link d).requests = [])
    (f : Request → Request) : s.modRequests d f = s := by
  have hself : { s.link d with requests := [] } = s.link d := by rw [← hreq]
  have hset : s.setRequests d [] = s := (congrArg (s.setLink d ·) hself).trans (setLink_self s d)
  unfold modRequests
  rw [hreq, List.map_nil, hset]
  exact syncLink_of_idle hctx d

theorem startWindow_of_idle (hctx : ∀ i, s.ctx i = none) {d : Degree} (hreq : (s.link d).requests = [])
    (cause : StartCause) :
    s.startWindow d cause = s.setBudget d { s.budget d with window := some (s.windowAt d cause) } :=
  modRequests_of_idle (s := s.setBudget d { s.budget d with window := some (s.windowAt d cause) }) hctx hreq _

/-- The windows of a part without records and requests: budgets alone are written. -/
theorem startWindows_of_idle (hctx : ∀ i, s.ctx i = none) (hreq : ∀ d, (s.link d).requests = [])
    (cause : StartCause) :
    s.startWindows cause = { s with budgets := (s.startWindows cause).budgets } ∧
      ∀ d, (s.startWindows cause).budget d =
        if s.present d then { s.budget d with window := some (s.windowAt d cause) } else s.budget d := by
  have key (l : List Degree) : ∀ t : State, t = { s with budgets := t.budgets } →
      let u := l.foldl (fun s d => if s.present d then s.startWindow d cause else s) t
      u = { s with budgets := u.budgets } ∧ ∀ d, u.budget d =
        if s.present d ∧ d ∈ l then { t.budget d with window := some (s.windowAt d cause) }
        else t.budget d := by
    induction l with
    | nil => exact fun t ht => ⟨ht, fun d => by simp⟩
    | cons a l ih =>
      intro t ht
      have hpres : t.present a = s.present a := by rw [ht]; rfl
      have hwin : t.windowAt a cause = s.windowAt a cause := by rw [ht]; rfl
      have hctx' (i : Slot) : t.ctx i = none := by rw [ht]; exact hctx i
      have hreq' : (t.link a).requests = [] := by rw [ht]; exact hreq a
      rw [List.foldl_cons, hpres]
      by_cases hp : s.present a = true
      · rw [if_pos hp, startWindow_of_idle hctx' hreq', hwin]
        have hnext : t.setBudget a { t.budget a with window := some (s.windowAt a cause) } =
            { s with budgets := (t.setBudget a
              { t.budget a with window := some (s.windowAt a cause) }).budgets } := by
          conv_lhs => rw [ht]
          rw [ht]
          rfl
        obtain ⟨h1, h2⟩ := ih _ hnext
        refine ⟨h1, fun d => ?_⟩
        rw [h2 d, budget_setBudget]
        by_cases had : a = d
        · subst had
          simp [hp]
        · have hda : ¬ d = a := Ne.symm had
          simp [had, hda]
      · rw [if_neg hp]
        obtain ⟨h1, h2⟩ := ih t ht
        refine ⟨h1, fun d => ?_⟩
        rw [h2 d]
        by_cases hda : d = a
        · subst hda
          simp [hp]
        · simp [hda]
  obtain ⟨h1, h2⟩ := key allDegrees s rfl
  refine ⟨h1, fun d => ?_⟩
  rw [startWindows, h2 d]
  simp

/-- R132: the first window, with no LINE_OUT power read, is UNLOADED. -/
theorem windowAt_of_empty {d : Degree} (hpow : (s.tap (lineOut d)).latest = none)
    (hfloor : 1 ≤ (s.degreeCfg d).floor) (cause : StartCause) :
    s.windowAt d cause = Window.first s.cfg cause := by
  have h0 : (0 : Nat) < (s.degreeCfg d).floor := hfloor
  simp [windowAt, Window.start, Window.first, readPower, hpow, h0]

end State

open State

/-! ## CONFIGURE -/

theorem floor_ofPayload (p : List Byte) (d : Degree) : 1 ≤ (PartConfig.ofPayload p).degrees[d].floor := by
  rw [degrees_ofPayload]
  show 1 ≤ configured 1 10000 50 _
  unfold configured clamp
  split <;> omega

theorem toList_eq_map {α : Type} (v : Vector α 8) : v.toList = allDegrees.map fun d => v[d] := by
  refine List.ext_getElem (by simp [allDegrees]) fun n h1 h2 => ?_
  simp [allDegrees]

theorem payload_config (cfg : PartConfig) : cfg.payload = payload16 (
    (allDegrees.flatMap fun d => [cfg.degrees[d].present.toNat, cfg.degrees[d].launch,
      cfg.degrees[d].dropTarget, cfg.degrees[d].fraction, cfg.degrees[d].floor,
      cfg.degrees[d].excursionLevel, cfg.degrees[d].tResp]) ++
    [cfg.presence, cfg.dwell, cfg.lossCount, cfg.collisionCount, cfg.stabilityLevel,
      cfg.stabilityCount, cfg.guardExit, cfg.window, cfg.linger]) := by
  rw [PartConfig.payload, toList_eq_map, List.flatMap_map]
  rfl

theorem configurePart_of_present {p : List Byte} {d : Degree} (h : fieldAt p (7 * d.val) ≠ 0) (s : State) :
    configurePart p s =
      .ok ((PartConfig.ofPayload p).payload, s.configureWith (PartConfig.ofPayload p)) := by
  have hany : (allDegrees.any fun d => (PartConfig.ofPayload p).degrees[d].present) = true := by
    rw [List.any_eq_true]
    refine ⟨d, mem_allDegrees d, ?_⟩
    rw [degrees_ofPayload]
    simp [DegreeConfig.ofPayload, h]
  unfold configurePart
  dsimp only
  rw [hany]
  rfl

theorem link_withConfig (s : State) (cfg : PartConfig) (d : Degree) : (s.withConfig cfg).link d =
    { s.link d with state := if cfg.degrees[d].present then .idle else .absent } := by
  simp [withConfig, link]

/-- R183, R184: CONFIGURE on a bare part. -/
theorem configureWith_of_bare {s : State} (cfg : PartConfig) (hb : s.Bare)
    (hfloor : ∀ d : Degree, 1 ≤ cfg.degrees[d].floor) :
    s.configureWith cfg = { s.withConfig cfg with budgets := (s.configureWith cfg).budgets } ∧
      ∀ d, (s.configureWith cfg).budget d =
        { window := if cfg.degrees[d].present = true then some (Window.first cfg .configure) else none
          boundaryDue := false } := by
  have hreq (d : Degree) : ((s.withConfig cfg).link d).requests = [] := by
    have hcleared : (s.link d).requests = [] := congrArg Link.requests (hb.links d)
    rw [link_withConfig]
    exact hcleared
  rw [configureWith_eq]
  obtain ⟨heq, hbudget⟩ := startWindows_of_idle (s := s.withConfig cfg) hb.contexts hreq .configure
  refine ⟨heq, fun d => ?_⟩
  have hpow : ((s.withConfig cfg).tap (lineOut d)).latest = none := by
    have htap := tap_stopped hb.tae (lineOut d)
    exact congrArg TapRecord.latest htap
  have hwin := windowAt_of_empty (s := s.withConfig cfg) hpow (hfloor d) .configure
  have hpres : (s.withConfig cfg).present d = cfg.degrees[d].present := rfl
  have hbud : (s.withConfig cfg).budget d = Budget.noWindow := hb.budgets d
  rw [hbudget d, hwin, hpres, hbud]
  split <;> rfl

/-- Settles O14: CONFIGURE writes the configuration and the links, and the windows start on an empty part. -/
theorem configurePutsThePartInRun : Obligations.ConfigurePutsThePartInRun := by
  intro p s hun hbare hlen ⟨d0, hd0⟩ cfg
  have hadm : Admission.configuring.refusal s.part = none := by rw [hun]; rfl
  obtain ⟨heq, hbudget⟩ := configureWith_of_bare cfg hbare.taken (floor_ofPayload p)
  obtain ⟨u, hu⟩ : ∃ u, u = s.taken.configureWith cfg := ⟨_, rfl⟩
  have hbody : configurePart p s.taken = .ok (cfg.payload, u) :=
    hu ▸ configurePart_of_present hd0 s.taken
  rw [← hu] at heq hbudget
  have hlinks : u.links = (s.taken.withConfig cfg).links := by rw [heq]
  have heq' : u = { s.taken with part := .run, config := some cfg, budgets := u.budgets, links := u.links } := by
    conv_lhs => rw [heq]
    rw [hlinks]
    rfl
  refine ⟨_, congrArg Host.Outcome.next (answer_of_body_ok hadm hlen hbody), ?_, fun d => ⟨hbudget d, ?_⟩⟩
  · rw [payload_config]
    exact congrArg (fun v => State.accepted v _) heq'
  · have hlink : u.link d = (s.taken.withConfig cfg).link d := by rw [heq]; rfl
    exact hlink.trans (link_withConfig _ cfg d)

/-! ## RESTART (R178, R184) -/

/-- R178: a link that has dropped its command. -/
def Link.dropped (l : Link) : Link :=
  { l with state := .idle, command := none, timer := none, accepted := false, retry := false }

namespace State

variable {s t : State}

theorem links_clearSteps (s : State) (entries : List CommandEntry) : (s.clearSteps entries).links = s.links := by
  unfold clearSteps
  induction entries generalizing s with
  | nil => rfl
  | cons e l ih =>
    rw [List.foldl_cons, ih]
    split
    · rfl
    · exact links_modCtx s _ _

theorem link_quieten (s : State) (d e : Degree) :
    (s.quieten d).link e = if d = e then (s.link d).dropped else s.link e := by
  unfold quieten
  rw [link_of_links (links_syncLink _ d), modLink, link_setLink]
  rfl

theorem link_dropCommand {d : Degree} {cmd : LinkCommand} (h : (s.link d).command = some cmd) (e : Degree) :
    (s.dropCommand d).link e = if d = e then (s.link d).dropped else s.link e := by
  unfold dropCommand
  rw [h]
  dsimp only
  rw [link_quieten, link_of_links (links_clearSteps s _), link_of_links (links_clearSteps s _)]

theorem dropCommand_of_none {d : Degree} (h : (s.link d).command = none) : s.dropCommand d = s := by
  unfold dropCommand
  rw [h]

theorem link_dropCommand_of_ne (s : State) {d e : Degree} (h : d ≠ e) : (s.dropCommand d).link e = s.link e := by
  cases hc : (s.link d).command with
  | none => rw [dropCommand_of_none hc]
  | some cmd => rw [link_dropCommand hc, if_neg h]

/-- R178: a FAULTED link has dropped its command; a link that is not FAULTED is as it was. -/
theorem link_dropFaulted (s : State) (d : Degree) :
    ((s.link d).state ≠ .faulted → (s.dropFaulted).link d = s.link d) ∧
      ((s.link d).state = .faulted → (s.link d).command ≠ none →
        (s.dropFaulted).link d = (s.link d).dropped) := by
  have key (l : List Degree) : ∀ t : State,
      let u := l.foldl (fun s d => if (s.link d).state = .faulted then s.dropCommand d else s) t
      ((t.link d).state ≠ .faulted → u.link d = t.link d) ∧
        ((t.link d).state = .faulted → (t.link d).command ≠ none →
          u.link d = if d ∈ l then (t.link d).dropped else t.link d) := by
    induction l with
    | nil => exact fun t => ⟨fun _ => rfl, fun _ _ => rfl⟩
    | cons a l ih =>
      intro t
      rw [List.foldl_cons]
      by_cases had : a = d
      · subst had
        refine ⟨fun h => ?_, fun h hc => ?_⟩
        · rw [if_neg h]
          exact (ih t).1 h
        · obtain ⟨cmd, hcmd⟩ := Option.ne_none_iff_exists'.mp hc
          have hl : (t.dropCommand a).link a = (t.link a).dropped := by
            rw [link_dropCommand hcmd, if_pos rfl]
          rw [if_pos h, if_pos List.mem_cons_self, ← hl]
          exact (ih _).1 (by rw [hl]; nofun)
      · have hsame : (if (t.link a).state = .faulted then t.dropCommand a else t).link d = t.link d := by
          split
          · exact link_dropCommand_of_ne t had
          · rfl
        obtain ⟨h1, h2⟩ := ih (if (t.link a).state = .faulted then t.dropCommand a else t)
        rw [hsame] at h1 h2
        refine ⟨h1, fun h hc => (h2 h hc).trans ?_⟩
        have hda : d ≠ a := Ne.symm had
        simp [hda]
  obtain ⟨h1, h2⟩ := key allDegrees s
  refine ⟨h1, fun h hc => ?_⟩
  rw [dropFaulted, h2 h hc, if_pos (mem_allDegrees d)]

theorem dropFaulted_of_none (h : ∀ d, (s.link d).state ≠ .faulted) : s.dropFaulted = s := by
  unfold dropFaulted
  generalize allDegrees = l
  induction l with
  | nil => rfl
  | cons d l ih =>
    rw [List.foldl_cons, if_neg (h d)]
    exact ih

theorem quiet_iff : s.quiet = true ↔ ∀ d, (s.link d).command = none := by
  simp [quiet]

theorem link_clearedPart (s : State) (d : Degree) :
    s.clearedPart.link d = clearedLink (s.link d) (s.linkPresence d) := by
  simp [clearedPart, link]

theorem linkPresence_ne_faulted (s : State) (d : Degree) : s.linkPresence d ≠ .faulted := by
  unfold linkPresence
  split <;> nofun

theorem clearedLink_quiet (l : Link) {st : LinkState} (h : st ≠ .faulted) :
    (clearedLink l st).command = none ∧ (clearedLink l st).timer = none ∧
      (clearedLink l st).state ≠ .faulted :=
  ⟨rfl, rfl, h⟩

/-- R184: what the return to RUN clears, and the windows it starts. -/
theorem returnToRun_spec (s : State) :
    s.returnToRun = { s.clearedPart with budgets := s.returnToRun.budgets } ∧
      ∀ d, s.returnToRun.budget d =
        { window := if s.present d = true then some (s.clearedPart.windowAt d .restart) else none
          boundaryDue := false } := by
  have hctx (i : Slot) : s.clearedPart.ctx i = none := by simp [clearedPart, ctx]
  have hreq (d : Degree) : (s.clearedPart.link d).requests = [] := by
    rw [link_clearedPart]
    rfl
  rw [returnToRun_eq]
  obtain ⟨heq, hbudget⟩ := startWindows_of_idle hctx hreq .restart
  refine ⟨heq, fun d => ?_⟩
  have hpres : s.clearedPart.present d = s.present d := rfl
  have hbud : s.clearedPart.budget d = Budget.noWindow := by simp [clearedPart, budget]
  rw [hbudget d, hpres, hbud]
  split <;> rfl

theorem windowAt_clearedPart {d : Degree} (hfloor : 1 ≤ (s.degreeCfg d).floor) :
    s.clearedPart.windowAt d .restart = Window.first s.cfg .restart :=
  windowAt_of_empty (s := s.clearedPart)
    (congrArg TapRecord.latest (tap_stopped (s := s.clearedPart) rfl (lineOut d))) hfloor .restart

theorem link_returnToRun (ht : t = s.returnToRun) (d : Degree) :
    t.link d = clearedLink (s.link d) (s.linkPresence d) := by
  have heq := (returnToRun_spec s).1
  rw [← ht] at heq
  rw [← link_clearedPart, heq]
  rfl

/-- R184: the return to RUN clears the part, of which the buffer is no part. -/
theorem cleared_of_returnToRun (hfloor : ∀ d, 1 ≤ (s.degreeCfg d).floor) (ht : t = s.returnToRun) (b : Buffer) :
    s.Cleared { t with buffer := b } := by
  obtain ⟨heq, hbudget⟩ := returnToRun_spec s
  rw [← ht] at heq hbudget
  simp only [windowAt_clearedPart (hfloor _)] at hbudget
  have hlinks : t.links = s.clearedPart.links := by rw [heq]
  refine ⟨?_, fun i => ?_, fun k => ?_, fun d => ?_, hbudget, fun d => (link_returnToRun ht d :)⟩
  · have hcontexts : t.contexts = s.clearedPart.contexts := by rw [heq]
    have hkeyers : t.keyers = s.clearedPart.keyers := by rw [heq]
    have hguards : t.guards = s.clearedPart.guards := by rw [heq]
    refine (congrArg (fun v : State => { v with buffer := b }) heq).trans ?_
    dsimp only
    rw [hcontexts, hkeyers, hguards, hlinks]
    rfl
  · show t.ctx i = none
    rw [heq]
    simp [clearedPart, ctx]
  · show t.keyer k = Keyer.free
    rw [heq]
    simp [clearedPart, keyer]
  · show t.guard d = Guard.clear
    rw [heq]
    simp [clearedPart, guard]

end State

theorem exec_restart (p : List Byte) (s : State) :
    exec (.restart p) s = .next (s.answer .running 0 p restartPart) := rfl

theorem exec_restartComplete (s : State) : exec .restartComplete s =
    .next (if s.part = .restarting ∧ s.quiet then s.returnToRun else s) := rfl

/-- What RESTART answers. -/
theorem exec_restart_of_run {s : State} (hrun : s.part = .run) : exec (.restart []) s = .next
    ((if s.taken.restarting.dropFaulted.quiet then s.taken.restarting.dropFaulted.returnToRun
      else s.taken.restarting.dropFaulted).accepted []) := by
  rw [exec_restart]
  exact congrArg Host.Outcome.next
    (answer_of_body_ok (running_refusal_of_run hrun) rfl (restartPart_eq s.taken))

/-- Settles O30: with every link quiet the part clears at once; a command waits; a FAULTED link drops its
own. -/
theorem restartClearsOrWaitsForTheLinks : Obligations.RestartClearsOrWaitsForTheLinks := by
  intro s hrun
  rw [exec_restart_of_run hrun]
  have hlinks (d : Degree) : s.taken.restarting.link d = s.link d := rfl
  have undropped (h : ∀ d, (s.link d).state ≠ .faulted) :
      s.taken.restarting.dropFaulted = s.taken.restarting := dropFaulted_of_none h
  refine ⟨fun hquiet hfault hfloor => ?_, fun ⟨d, hd⟩ hfault => ?_, ?_⟩
  · have hq : s.taken.restarting.quiet = true := quiet_iff.mpr hquiet
    rw [undropped hfault, if_pos hq]
    obtain ⟨u, hu⟩ : ∃ u, u = s.taken.restarting.returnToRun := ⟨_, rfl⟩
    obtain ⟨hrest, hctx, hkey, hguard, hbudget, hlink⟩ :=
      cleared_of_returnToRun (s := s.taken.restarting) hfloor hu (.pending .ok [])
    rw [← hu]
    exact ⟨_, rfl, ⟨hrest, hctx, hkey, hguard, hbudget, hlink⟩, rfl⟩
  · have hq : ¬ s.taken.restarting.quiet = true := fun hq => hd (quiet_iff.mp hq d)
    rw [undropped hfault, if_neg hq]
    rfl
  · obtain ⟨v, hv⟩ : ∃ v, v = if s.taken.restarting.dropFaulted.quiet then
        s.taken.restarting.dropFaulted.returnToRun else s.taken.restarting.dropFaulted := ⟨_, rfl⟩
    rw [← hv]
    refine ⟨v.accepted [], rfl, rfl, fun d hfault hcmd => ?_⟩
    have hdropped := (link_dropFaulted s.taken.restarting d).2 hfault hcmd
    have hl : v.link d = (s.link d).dropped ∨
        v.link d = clearedLink (s.taken.restarting.dropFaulted.link d)
          (s.taken.restarting.dropFaulted.linkPresence d) := by
      by_cases hq : s.taken.restarting.dropFaulted.quiet = true
      · rw [if_pos hq] at hv
        exact Or.inr (link_returnToRun hv d)
      · rw [if_neg hq] at hv
        rw [hv]
        exact Or.inl hdropped
    show (v.link d).command = none ∧ (v.link d).timer = none ∧ (v.link d).state ≠ .faulted
    rcases hl with hl | hl <;> rw [hl]
    · exact ⟨rfl, rfl, nofun⟩
    · exact clearedLink_quiet _ (linkPresence_ne_faulted _ d)

/-- Settles O31: the return to RUN comes in RESTARTING with every link quiet. -/
theorem restartCompletesWhenLinksAreQuiet : Obligations.RestartCompletesWhenLinksAreQuiet := by
  intro s
  rw [exec_restartComplete]
  refine ⟨fun hp hquiet hfloor => ?_, fun h => ?_⟩
  · obtain ⟨u, hu⟩ : ∃ u, u = s.returnToRun := ⟨_, rfl⟩
    obtain ⟨heq, -⟩ := returnToRun_spec s
    rw [← hu] at heq
    have hbuf : u.buffer = s.buffer := by rw [heq]; rfl
    rw [if_pos ⟨hp, quiet_iff.mpr hquiet⟩, ← hu]
    exact ⟨u, rfl, cleared_of_returnToRun hfloor hu u.buffer, hbuf⟩
  · rw [if_neg]
    rintro ⟨hp, hquiet⟩
    rcases h with h | ⟨d, hd⟩
    · exact h hp
    · exact hd (quiet_iff.mp hquiet d)

end Sys2Proof.Machine
end

section
/-! SUPPORT. Links (R173 to R175, R178): holds that follow a link, a command dropped, resent or at fault. -/

namespace Sys2Proof.Machine

/-- R7: a record with the hold flags that its link gives it. -/
def Context.synced (c : Context) (l : Link) (i : Slot) : Context :=
  { c with flags :=
    { c.flags with
      budgetWait := (l.requestOf i).any (·.budgetHold)
      guardHold := (l.requestOf i).any (·.guardHold)
      linkHold := l.state == .faulted && ((l.requestOf i).isSome || c.step.isSome) } }

namespace State

variable {s t u : State} {d : Degree} {i : Slot} {c : Context}

/-! ## The holds of a link's records -/

theorem syncHolds_eq (s : State) (i : Slot) :
    s.syncHolds i = s.modCtx i fun c => c.synced (s.link c.link) i := rfl

/-- R7: the records of the link have its holds, and the others are as they were. -/
theorem ctx_syncLink (d : Degree) (hc : s.ctx i = some c) :
    (s.syncLink d).ctx i = some (if c.link = d then c.synced (s.link d) i else c) := by
  have key (l : List Slot) : ∀ t : State, t.links = s.links → ∀ x, t.ctx i = some x → x.link = c.link →
      (l.foldl (fun s i => if (s.ctx i).any (·.link == d) then s.syncHolds i else s) t).ctx i =
        some (if c.link = d ∧ i ∈ l then x.synced (s.link d) i else x) := by
    induction l with
    | nil => exact fun t _ x hx _ => by simpa using hx
    | cons a l ih =>
      intro t ht x hx hxl
      rw [List.foldl_cons]
      by_cases hia : i = a
      · subst hia
        by_cases hd : c.link = d
        · have hany : (t.ctx i).any (·.link == d) = true := by simp [hx, hxl, hd]
          have hlink : t.link x.link = s.link d := by rw [hxl, hd, link_of_links ht]
          rw [if_pos hany, ih (t.syncHolds i) ((links_modCtx t i _).trans ht) (x.synced (s.link d) i) ?_ hxl]
          · by_cases hil : i ∈ l
            · simp [hd, hil]
              rfl
            · simp [hd, hil]
          · rw [syncHolds_eq, ctx_modCtx_self t hx, hlink]
        · have hany : ¬ (t.ctx i).any (·.link == d) = true := by simp [hx, hxl, hd]
          rw [if_neg hany, ih t ht x hx hxl]
          simp [hd]
      · have hstep : (if (t.ctx a).any (·.link == d) then t.syncHolds a else t).ctx i = some x ∧
            (if (t.ctx a).any (·.link == d) then t.syncHolds a else t).links = s.links := by
          split
          · exact ⟨(ctx_modCtx_of_ne t hia _).trans hx, (links_modCtx t a _).trans ht⟩
          · exact ⟨hx, ht⟩
        rw [ih _ hstep.2 x hstep.1 hxl]
        simp [hia]
  have := key allSlots s rfl c hc rfl
  rw [syncLink, this]
  simp

/-! ## Steps that are cleared (R178) -/

theorem ctx_clearSteps (s : State) (entries : List CommandEntry) (i : Slot) :
    (s.clearSteps entries).ctx i =
      (s.ctx i).map fun c => if ∃ e ∈ entries, e.slot = some i then { c with step := none } else c := by
  unfold clearSteps
  induction entries generalizing s with
  | nil => simp
  | cons a l ih =>
    rw [List.foldl_cons, ih]
    cases ha : a.slot with
    | none => simp [ha]
    | some j =>
      by_cases hij : i = j
      · subst hij
        cases hc : s.ctx i with
        | none => simp [modCtx_of_none hc, hc]
        | some c =>
          rw [ctx_modCtx_self s hc]
          simp [ha]
      · have hji : ¬ j = i := Ne.symm hij
        dsimp only
        rw [ctx_modCtx_of_ne s hij]
        simp [ha, hji]

theorem still_clearSteps (s : State) (entries : List CommandEntry) : (s.clearSteps entries).still = s.still :=
  (reacts_clearSteps s entries).still

theorem keyers_clearSteps (s : State) (entries : List CommandEntry) :
    (s.clearSteps entries).keyers = s.keyers := by
  unfold clearSteps
  induction entries generalizing s with
  | nil => rfl
  | cons a l ih =>
    rw [List.foldl_cons, ih]
    split
    · rfl
    · exact keyers_modCtx s _ _

/-! ## No flag in RESTARTING (R184) -/

theorem events_modCtx_of_restarting (hp : s.part = .restarting) (i : Slot) (f : Context → Context) :
    (s.modCtx i f).events = s.events := by
  unfold modCtx
  split
  · rfl
  · unfold putRecord
    split
    · rfl
    · have hp' (o : Option Context) : (s.setRecord i o).part = .restarting := hp
      rw [markChange, if_pos (hp' _)]
      rfl

theorem events_clearSteps_of_restarting (hp : s.part = .restarting) (entries : List CommandEntry) :
    (s.clearSteps entries).events = s.events := by
  unfold clearSteps
  induction entries generalizing s with
  | nil => rfl
  | cons a l ih =>
    rw [List.foldl_cons]
    split
    · exact ih hp
    · rename_i j _
      rw [ih ((part_of_still (still_modCtx s j _)).trans hp), events_modCtx_of_restarting hp]

theorem events_syncLink_of_restarting (hp : s.part = .restarting) (d : Degree) :
    (s.syncLink d).events = s.events := by
  unfold syncLink
  generalize allSlots = l
  induction l generalizing s with
  | nil => rfl
  | cons i l ih =>
    rw [List.foldl_cons]
    split
    · rw [ih (s := s.syncHolds i) ((part_of_still (still_modCtx s i _)).trans hp)]
      exact events_modCtx_of_restarting hp i _
    · exact ih hp

/-! ## A command dropped -/

/-- Records that differ in their step and their holds. -/
def sameButStep (c x : Context) : Prop := Context.Calmly { c with step := none } { x with step := none }

theorem sameButStep_of_calmly {c x : Context} (h : c.Calmly x) : sameButStep c x := by
  unfold sameButStep Context.Calmly
  rw [h]

theorem sameButStep_fields {c x : Context} (h : sameButStep c x) :
    x.state = c.state ∧ x.atten = c.atten ∧ x.identity = c.identity := by
  unfold sameButStep Context.Calmly at h
  exact ⟨(congrArg Context.state h :), (congrArg Context.atten h :), (congrArg Context.identity h :)⟩

theorem sameButStep_trans {a b c : Context} (h1 : sameButStep a b) (h2 : sameButStep b c) : sameButStep a c :=
  Context.Calmly.trans _ _ _ h1 h2

theorem sameButStep_clearSteps (s : State) (entries : List CommandEntry) (i : Slot) :
    sameSlot sameButStep (s.ctx i) ((s.clearSteps entries).ctx i) := by
  rw [ctx_clearSteps]
  cases s.ctx i with
  | none => trivial
  | some c =>
    show sameButStep c _
    split <;> exact Context.Calmly.refl _

theorem drops_dropCommand {cmd : LinkCommand} (hp : s.part = .restarting)
    (hcmd : (s.link d).command = some cmd) : s.Drops (s.dropCommand d) d cmd := by
  have hlink := link_dropCommand hcmd
  have hdrop : s.dropCommand d = (s.clearSteps cmd.entries).quieten d := by
    unfold dropCommand
    rw [hcmd]
  have hcalm := calm_syncLink ((s.clearSteps cmd.entries).modLink d fun l =>
    { l with state := .idle, command := none, timer := none, accepted := false, retry := false }) d
  have hp' : (s.clearSteps cmd.entries).part = .restarting :=
    (part_of_still (still_clearSteps s _)).trans hp
  have hlinkd : (s.dropCommand d).link d = (s.link d).dropped := (hlink d).trans (if_pos rfl)
  refine ⟨?_, ?_, ?_, ?_, ?_, fun e he => (hlink e).trans (if_neg (Ne.symm he)), ?_, fun i => ?_⟩
  · rw [hdrop]
    exact hcalm.still.trans (still_clearSteps s _)
  · rw [hdrop]
    exact hcalm.budgets.trans (reacts_clearSteps s _).budgets
  · rw [hdrop]
    exact hcalm.keyers.trans (keyers_clearSteps s _)
  · rw [hdrop]
    exact (events_syncLink_of_restarting (by exact hp') d).trans (events_clearSteps_of_restarting hp _)
  · rw [hlinkd]
    rfl
  · intro e he i c hei hc
    have hcleared : ((s.clearSteps cmd.entries).modLink d fun l =>
        { l with state := .idle, command := none, timer := none, accepted := false, retry := false }).ctx i =
          some { c with step := none } := by
      show (s.clearSteps cmd.entries).ctx i = _
      rw [ctx_clearSteps, hc, Option.map_some, if_pos ⟨e, he, hei⟩]
    obtain ⟨x, hx, hcx⟩ := hcalm.record hcleared
    refine ⟨x, hdrop ▸ hx, ?_⟩
    rw [hcx]
  · rw [hdrop]
    exact sameSlot_trans (R := sameButStep) (fun _ _ _ => sameButStep_trans)
      (sameButStep_clearSteps s cmd.entries i) (sameSlot_imp (fun _ _ => sameButStep_of_calmly) (hcalm.records i))

/-! ## A command sent again, and a link at fault (R173 to R175) -/

theorem ctx_markLink (s : State) (d : Degree) (f : LinkFlags → LinkFlags) (i : Slot) :
    (s.markLink d f).ctx i = s.ctx i := by
  unfold markLink
  split <;> rfl

theorem link_resend (s : State) (d e : Degree) : (s.resend d).link e =
    if d = e then { s.link d with state := .retrying, timer := some 0, sendings := (s.link d).sendings + 1 }
    else s.link e := by
  unfold resend
  rw [link_of_links (links_syncLink _ d), modLink, link_setLink]

/-- R173, R175: nothing but the link and the holds of its records is written. -/
theorem resend_spec (s : State) (d : Degree) : (s.resend d).still = s.still ∧
    (s.resend d).budgets = s.budgets ∧ (s.resend d).keyers = s.keyers ∧
    (∀ i, sameSlot Context.Calmly (s.ctx i) ((s.resend d).ctx i)) ∧
    ∀ i c, s.ctx i = some c → c.link = d → ∃ x, (s.resend d).ctx i = some x ∧ x.flags.linkHold = false := by
  have hcalm := calm_syncLink (s.modLink d fun l =>
    { l with state := .retrying, timer := some 0, sendings := l.sendings + 1 }) d
  refine ⟨hcalm.still, hcalm.budgets, hcalm.keyers, hcalm.records, fun i c hc hd => ?_⟩
  have hctx : (s.modLink d fun l =>
      { l with state := .retrying, timer := some 0, sendings := l.sendings + 1 }).ctx i = some c := hc
  refine ⟨_, (ctx_syncLink d hctx).trans (congrArg some (if_pos hd)), ?_⟩
  rw [modLink, link_setLink_self]
  rfl

/-- The link of a fault, before the holds follow it. -/
def faulting (d : Degree) (s : State) : State :=
  (s.modLink d fun l => { l with state := .faulted, timer := none, retry := true }).markLink d
    fun f => { f with fault := true }

theorem faultLink_eq (s : State) (d : Degree) : s.faultLink d = (s.faulting d).syncLink d := rfl

theorem faulting_eq (hp : s.part ≠ .restarting) (d : Degree) : s.faulting d =
    { s with
      links := s.links.set d { s.link d with state := .faulted, timer := none, retry := true }
      events :=
        { s.events with
          link := s.events.link.set d { s.events.link[d] with fault := true }
          attn := s.events.attn || s.mask.link } } := by
  have hp' : (s.modLink d fun l => { l with state := .faulted, timer := none, retry := true }).part ≠
      .restarting := hp
  unfold faulting markLink
  rw [if_neg hp']
  rfl

theorem link_faulting (hp : s.part ≠ .restarting) (d e : Degree) : (s.faulting d).link e =
    if d = e then { s.link d with state := .faulted, timer := none, retry := true } else s.link e := by
  rw [faulting_eq hp]
  exact link_setLink s d e _

theorem requestOf_isSome_iff (l : Link) (i : Slot) :
    (l.requestOf i).isSome = true ↔ ∃ r ∈ l.requests, i ∈ r.holders := by
  simp [Link.requestOf]

/-- R174: a FAULTED link holds the records that have a request or a step on it. -/
theorem exists_linkHold_of_faulting (hp : s.part ≠ .restarting) (hc : s.ctx i = some c) (hd : c.link = d)
    (h : c.step.isSome = true ∨ ∃ r ∈ (s.link d).requests, i ∈ r.holders) :
    ∃ x, ((s.faulting d).syncLink d).ctx i = some x ∧ x.flags.linkHold = true := by
  have hctx : (s.faulting d).ctx i = some c := by
    rw [faulting_eq hp]
    exact hc
  refine ⟨_, (ctx_syncLink d hctx).trans (congrArg some (if_pos hd)), ?_⟩
  have hsome : ((s.link d).requestOf i).isSome = true ∨ c.step.isSome = true :=
    (h.imp_right (requestOf_isSome_iff _ i).mpr).symm
  rw [link_faulting hp, if_pos rfl]
  simpa [Context.synced, Link.requestOf] using hsome

end State

open State

theorem exec_responseTimeout (d : Degree) (s : State) : exec (.responseTimeout d) s =
    .next (if (s.link d).timer = some (s.degreeCfg d).tResp then s.timeOut d else s) := rfl

theorem exec_linkRetry (p : List Byte) (s : State) :
    exec (.linkRetry p) s = .next (s.answer .running 2 p (linkRetryBody p)) := rfl

/-- A degree that a command names. -/
theorem namedDegree_eq_none {s : State} {p : List Byte}
    (h : ¬ ∃ d : Degree, fieldAt p 0 = d.val ∧ s.present d = true) : s.namedDegree p = none :=
  Option.eq_none_iff_forall_ne_some.mpr fun d hd => h ⟨d, usedDegree_eq_some_iff.mp hd⟩

/-- Settles O29: a FAULTED link sends its command again, and no other link's state is taken. -/
theorem linkRetrySendsTheHeldCommand : Obligations.LinkRetrySendsTheHeldCommand := by
  intro p s hrun hlen
  have hadm := running_refusal_of_run hrun
  rw [exec_linkRetry]
  refine ⟨fun h => ?_, fun d hd hpres => ⟨fun h => ?_, fun h => ?_⟩⟩
  · have hnone : s.taken.namedDegree p = none := namedDegree_eq_none (s := s.taken) h
    rw [answer_of_body_error hadm hlen]
    simp only [linkRetryBody, hnone]
  · have hsome : s.taken.namedDegree p = some d := usedDegree_eq_some_iff.mpr ⟨hd, hpres⟩
    rw [answer_of_body_error hadm hlen]
    have hlink : s.taken.link d = s.link d := rfl
    rcases h with h | h | h <;> simp only [linkRetryBody, hsome, hlink, h]
  · have hsome : s.taken.namedDegree p = some d := usedDegree_eq_some_iff.mpr ⟨hd, hpres⟩
    have hlink : s.taken.link d = s.link d := rfl
    have hstate : ((s.taken.resend d).link d).state = .retrying := by rw [link_resend, if_pos rfl]
    have hbody : linkRetryBody p s.taken = .ok (payload16 [3], s.taken.resend d) := by
      simp only [linkRetryBody, hsome, hlink, h, hstate]
      rfl
    obtain ⟨hstill, hbudgets, hkeyers, hrecords, hholds⟩ := resend_spec s.taken d
    have hself : (s.taken.resend d).link d =
        { s.link d with state := .retrying, timer := some 0, sendings := (s.link d).sendings + 1 } :=
      (link_resend s.taken d d).trans (if_pos rfl)
    have hother (e : Degree) (he : e ≠ d) : (s.taken.resend d).link e = s.link e :=
      (link_resend s.taken d e).trans (if_neg (Ne.symm he))
    rw [answer_of_body_ok hadm hlen hbody]
    generalize s.taken.resend d = u at hstill hbudgets hkeyers hrecords hholds hself hother
    exact ⟨u.accepted (payload16 [3]), rfl, still_accepted s u hstill _, hself, hother, hbudgets, hkeyers,
      hrecords, hholds⟩

/-- Settles O49: the timeout by the link's state, and in RESTARTING the command is dropped. -/
theorem responseTimeoutResendsOrFaults : Obligations.ResponseTimeoutResendsOrFaults := by
  intro s d
  rw [exec_responseTimeout]
  refine ⟨fun h => by rw [if_neg h], fun ht => ?_⟩
  rw [if_pos ht]
  refine ⟨fun hp hst => ?_, fun hp hst => ?_, fun hp cmd hcmd => ?_⟩
  · have hout : s.timeOut d = s.resend d := by simp only [timeOut, if_neg hp, hst]
    obtain ⟨hstill, hbudgets, hkeyers, hrecords, -⟩ := resend_spec s d
    rw [hout]
    exact ⟨_, rfl, hstill, (link_resend s d d).trans (if_pos rfl),
      fun e he => (link_resend s d e).trans (if_neg (Ne.symm he)), hbudgets, hkeyers, hrecords⟩
  · have hout : s.timeOut d = (s.faulting d).syncLink d := by
      simp only [timeOut, if_neg hp, hst, faultLink_eq]
    have hcalm := calm_syncLink (s.faulting d) d
    have hlink (e : Degree) := (link_of_links (links_syncLink (s.faulting d) d) e).trans
      (link_faulting hp d e)
    have hholds (i : Slot) (c : Context) (hc : s.ctx i = some c) (hd : c.link = d)
        (h : c.step.isSome = true ∨ ∃ r ∈ (s.link d).requests, i ∈ r.holders) :=
      exists_linkHold_of_faulting hp hc hd h
    have hstill := hcalm.still
    have hrecords := hcalm.records
    have hbudgets := hcalm.budgets
    have hkeyers := hcalm.keyers
    rw [hout]
    generalize (s.faulting d).syncLink d = u at hlink hholds hstill hrecords hbudgets hkeyers
    rw [faulting_eq hp] at hstill hrecords hbudgets hkeyers
    simp only [still, Still.mk.injEq] at hstill
    obtain ⟨hpart, hconfig, htime, hbuf, -, hmask, htae, hguards, -, hpend, -, hflags⟩ := hstill
    exact ⟨u, rfl, (hlink d).trans (if_pos rfl), fun e he => (hlink e).trans (if_neg (Ne.symm he)), hbudgets,
      hkeyers, htae, hguards, hpart, hconfig, htime, hbuf, hmask, hpend, by simp [hflags], hrecords, hholds⟩
  · have hout : s.timeOut d = s.dropCommand d := by simp only [timeOut, if_pos hp]
    have hdrops := drops_dropCommand hp hcmd
    rw [hout]
    refine ⟨_, rfl, hdrops.still, ?_, hdrops.links, hdrops.budgets, hdrops.keyers, hdrops.events,
      fun e he i c hei hc => ?_⟩
    · exact (link_dropCommand hcmd d).trans (if_pos rfl)
    · obtain ⟨x, hx, hstep⟩ := hdrops.steps e he i c hei hc
      have hsame := hdrops.records i
      rw [hc, hx] at hsame
      exact ⟨x, hx, hstep, sameButStep_fields hsame⟩

end Sys2Proof.Machine
end

section
/-! SUPPORT. The rank of requests and the grant of an URGENT BLOCK (R124, R166, R167). -/

namespace Sys2Proof.Machine

/-! ## Rank (R166) -/

theorem mem_insertRanked {r q : Request} {l : List Request} : q ∈ insertRanked r l ↔ q = r ∨ q ∈ l := by
  induction l with
  | nil => simp [insertRanked]
  | cons x l ih =>
    rw [insertRanked]
    split
    · simp
    · rw [List.mem_cons, List.mem_cons, ih]
      tauto

theorem mem_ranked {q : Request} {l : List Request} : q ∈ ranked l ↔ q ∈ l := by
  induction l with
  | nil => rfl
  | cons x l ih =>
    show q ∈ insertRanked x (ranked l) ↔ _
    rw [mem_insertRanked, ih, List.mem_cons]

theorem precedes_refl (r : Request) : r.precedes r = true := by simp [Request.precedes]

/-- R166: a request before every other one is the first of the rank order. -/
theorem ranked_eq_cons {r : Request} {l : List Request} (hr : r ∈ l)
    (hfirst : ∀ q ∈ l, q = r ∨ r.precedes q = true ∧ ¬ q.precedes r = true) :
    ∃ tl, ranked l = r :: tl := by
  induction l with
  | nil => cases hr
  | cons x l ih =>
    have hcons : ranked (x :: l) = insertRanked x (ranked l) := rfl
    have htail : ∀ q ∈ l, q = r ∨ r.precedes q = true ∧ ¬ q.precedes r = true :=
      fun q hq => hfirst q (List.mem_cons_of_mem x hq)
    rw [hcons]
    by_cases hx : x = r
    · subst hx
      cases htl : ranked l with
      | nil => exact ⟨[], rfl⟩
      | cons y tl =>
        have hy : y ∈ l := mem_ranked.mp (htl ▸ List.mem_cons_self)
        have hxy : x.precedes y = true := by
          rcases htail y hy with e | ⟨h, -⟩
          · rw [e]
            exact precedes_refl x
          · exact h
        exact ⟨y :: tl, by rw [insertRanked, if_pos hxy]⟩
    · have hmem : r ∈ l := (List.mem_cons.mp hr).resolve_left (Ne.symm hx)
      obtain ⟨tl, htl⟩ := ih hmem htail
      have hnot := ((hfirst x List.mem_cons_self).resolve_left hx).2
      exact ⟨insertRanked x tl, by rw [htl, insertRanked, if_neg hnot]⟩

/-- R166: within URGENT the lowest slot is first, and URGENT is before the other levels. -/
theorem precedes_of_urgent {r q : Request} (hr : r.level = .urgent)
    (h : q.level ≠ .urgent ∨ r.position < q.position) : r.precedes q = true ∧ ¬ q.precedes r = true := by
  unfold Request.precedes
  rw [hr]
  by_cases hq : q.level = .urgent
  · have hlt := h.resolve_left (· hq)
    simp [hq, Nat.le_of_lt hlt, hlt]
  · have hrank : Level.urgent.rank < q.level.rank := by
      generalize q.level = v at hq
      cases v with
      | urgent => exact absurd rfl hq
      | high => decide
      | low => decide
    have hne : (q.level.rank == Level.urgent.rank) = false := beq_false_of_ne (Nat.ne_of_gt hrank)
    simp [hrank, hne, Nat.le_of_lt hrank]

theorem position_single {kind : ReqKind} {i : Slot} {dir : Option Direction} {size : Option Nat} {charge : Nat}
    {r : Request} (h : r.body = .single kind i dir size charge) : r.position = i.val := by
  unfold Request.position Request.holders
  rw [h]
  have := i.isLt
  show min 64 i.val = i.val
  omega

theorem holder_of_key_single {q : Request} {i : Slot} (h : (q.key == .single i) = true) : i ∈ q.holders := by
  have hk := eq_of_beq h
  unfold Request.key at hk
  unfold Request.holders
  split at hk
  · cases hk
    simp_all
  · cases hk

/-- The request of a slot is the one with the slot's key, when no other request holds the slot. -/
theorem Link.requestBy_eq_some {l : Link} {r : Request} {i : Slot} (hr : r ∈ l.requests) (hk : r.key = .single i)
    (hone : ∀ q ∈ l.requests, q = r ∨ i ∉ q.holders) : l.requestBy (.single i) = some r := by
  unfold Link.requestBy
  cases hf : l.requests.find? fun q => q.key == .single i with
  | none =>
    have := List.find?_eq_none.mp hf r hr
    simp [hk] at this
  | some q =>
    have hq := List.find?_some hf
    rcases hone q (List.mem_of_find?_eq_some hf) with e | e
    · rw [e]
    · exact absurd (holder_of_key_single hq) e

namespace State

variable {s t : State} {d : Degree} {i : Slot} {c : Context}

theorem decision_of_not_idle (h : (s.link d).state ≠ .idle) (keys : List ReqKey) : s.decision d keys = s := by
  cases keys with
  | nil => rfl
  | cons k ks =>
    unfold decision
    split
    · exact absurd ‹_› h
    all_goals rfl

theorem setBudget_self (s : State) (d : Degree) : s.setBudget d (s.budget d) = s := by
  have e : s.budgets.set d.val (s.budget d) = s.budgets := Vector.set_getElem_self _
  unfold setBudget
  rw [e]

theorem reserve_zero (s : State) (d : Degree) : s.reserve d 0 = s := by
  have h : (s.budget d).reserve 0 = s.budget d := by
    unfold Budget.reserve
    cases hw : (s.budget d).window with
    | none => rw [Option.map_none, ← hw]
    | some w =>
      cases ha : w.allowance with
      | none => rw [Option.map_some, ha, Option.map_none, ← ha, ← hw]
      | some a => rw [Option.map_some, ha, Option.map_some, Nat.sub_zero, ← ha, ← hw]
  unfold reserve
  rw [h]
  exact setBudget_self s d

theorem links_syncHolds (s : State) (i : Slot) : (s.syncHolds i).links = s.links := links_modCtx s i _

/-- R167: a link that has sent a command. -/
def commandSent (l : Link) (cmd : LinkCommand) : Link :=
  { l with
    state := .busy, command := some cmd, number := l.number + 1#8, timer := some 0
    accepted := false, retry := false
    lastFrame := commandFrame (l.number + 1#8) cmd, sendings := l.sendings + 1 }

/-- R167: a grant with no charge that opens no port. -/
theorem grantSingle_eq (hc : s.ctx i = some c) {step : StepInFlight} (hcharge : step.charge = 0)
    (hkind : step.kind ≠ .openPort) : s.grantSingle d i step =
      (((s.takeRequest d (.single i)).modCtx i fun c => { c with step := some step }).send d
        { kind := step.kind.command, side := c.side, entries := [.carrying i c step] }).syncHolds i := by
  unfold grantSingle
  rw [hc]
  dsimp only
  rw [hcharge, reserve_zero]
  split
  · exact absurd ‹_› hkind
  all_goals rfl

theorem link_takeRequest (s : State) (d e : Degree) (k : ReqKey) : (s.takeRequest d k).link e =
    if d = e then { s.link d with requests := (s.link d).requests.filter fun r => r.key != k } else s.link e := by
  rw [takeRequest, setRequests, modLink, link_setLink]

theorem link_send (s : State) (d e : Degree) (cmd : LinkCommand) : (s.send d cmd).link e =
    if d = e then commandSent (s.link d) cmd else s.link e := by
  rw [send, modLink, link_setLink]
  rfl

/-- R167: the links after such a grant. -/
theorem link_grantSingle (hc : s.ctx i = some c) {step : StepInFlight} (hcharge : step.charge = 0)
    (hkind : step.kind ≠ .openPort) (e : Degree) : (s.grantSingle d i step).link e =
      if d = e then
        commandSent { s.link d with requests := (s.link d).requests.filter fun r => r.key != .single i }
          { kind := step.kind.command, side := c.side, entries := [.carrying i c step] }
      else s.link e := by
  have hlinks := links_modCtx (s.takeRequest d (.single i)) i fun c => { c with step := some step }
  rw [grantSingle_eq hc hcharge hkind, link_of_links (links_syncHolds _ i), link_send, link_of_links hlinks,
    link_of_links hlinks, link_takeRequest, link_takeRequest]
  by_cases h : d = e
  · rw [if_pos h, if_pos h, if_pos rfl]
  · rw [if_neg h, if_neg h, if_neg h]

/-- R167: the budgets and the record after such a grant. -/
theorem grantSingle_spec (hc : s.ctx i = some c) {step : StepInFlight} (hcharge : step.charge = 0)
    (hkind : step.kind ≠ .openPort) : (s.grantSingle d i step).budgets = s.budgets ∧
      ∃ x, (s.grantSingle d i step).ctx i = some x ∧ Context.Calmly { c with step := some step } x := by
  obtain ⟨u, hu⟩ : ∃ u, u = ((s.takeRequest d (.single i)).modCtx i fun c => { c with step := some step }).send d
      { kind := step.kind.command, side := c.side, entries := [.carrying i c step] } := ⟨_, rfl⟩
  have hctx : (s.takeRequest d (.single i)).ctx i = some c := hc
  rw [grantSingle_eq hc hcharge hkind, ← hu]
  refine ⟨?_, (calm_syncHolds u i).record ?_⟩
  · rw [(calm_syncHolds u i).budgets, hu]
    exact budgets_modCtx _ i _
  · rw [hu]
    exact ctx_modCtx_self _ hctx _

end State

open State

/-- Settles O52: the first URGENT BLOCK is reached first, and its grant ends the decision. -/
theorem urgentBlockIsGrantedFirst : Obligations.UrgentBlockIsGrantedFirst := by
  intro s d i c r hrun hc hst hd hidle hr hreq hone t
  have hbody : r.body = .single .block i none none 0 := by rw [hreq]
  have hkey : r.key = .single i := by rw [hreq]; rfl
  obtain ⟨tl, htl⟩ : ∃ tl, ranked (s.link d).requests = r :: tl := by
    refine ranked_eq_cons hr fun q hq => (hone q hq).imp_right fun ⟨_, h⟩ => ?_
    refine precedes_of_urgent (by rw [hreq]) ?_
    rwa [position_single hbody]
  have hby : (s.link d).requestBy (.single i) = some r :=
    Link.requestBy_eq_some hr hkey fun q hq => (hone q hq).imp_right And.left
  have hfits : ReqKind.block.fits c.state = true := by
    rcases hst with h | h <;> rw [h] <;> rfl
  have hreach : s.reach d r = s.grantSingle d i (.granted .block none 0 c.atten.level 0) := by
    rw [hreq]
    simp [reach, Request.held, reachSingle, hc, hfits]
  obtain ⟨hbudgets, x, hx, hcx⟩ := grantSingle_spec (d := d) hc
    (step := .granted .block none 0 c.atten.level 0) rfl nofun
  have hlink := (link_grantSingle (d := d) hc (step := .granted .block none 0 c.atten.level 0) rfl nofun d).trans
    (if_pos rfl)
  have ht : t = s.grantSingle d i (.granted .block none 0 c.atten.level 0) := by
    show s.decision d ((ranked (s.link d).requests).map Request.key) = _
    rw [htl, List.map_cons, hkey, decision, hidle]
    dsimp only
    rw [hby]
    dsimp only
    rw [hreach]
    exact decision_of_not_idle (by rw [hlink]; nofun) _
  rw [← ht] at hbudgets hlink hx
  refine ⟨by rw [hlink]; rfl, by rw [hlink]; rfl, by rw [hlink]; rfl, by rw [hlink]; rfl, hbudgets, ?_, x, hx, ?_⟩
  · rw [hlink]
    show r ∉ (s.link d).requests.filter _
    simp [hkey]
  · rw [hcx]
    exact ⟨rfl, rfl⟩

end Sys2Proof.Machine
end

section
/-! SUPPORT. The group request formed from its entries, and the evaluation of a group (R144, R163). -/

namespace Sys2Proof.Machine

/-! ## The least of a list -/

theorem foldl_min_spec {α : Type} (f : α → Nat) (l : List α) (n : Nat) :
    let m := l.foldl (fun n a => min n (f a)) n
    (m ≤ n ∧ ∀ a ∈ l, m ≤ f a) ∧ (m = n ∨ ∃ a ∈ l, m = f a) := by
  induction l generalizing n with
  | nil => exact ⟨⟨Nat.le_refl n, nofun⟩, Or.inl rfl⟩
  | cons a l ih =>
    obtain ⟨⟨hle, hall⟩, heq⟩ := ih (min n (f a))
    simp only [List.foldl_cons]
    refine ⟨⟨Nat.le_trans hle (Nat.min_le_left _ _), fun b hb => ?_⟩, ?_⟩
    · rcases List.mem_cons.mp hb with e | hb
      · rw [e]
        exact Nat.le_trans hle (Nat.min_le_right _ _)
      · exact hall b hb
    · rcases heq with h | ⟨b, hb, h⟩
      · rcases Nat.le_total n (f a) with hna | hna
        · exact Or.inl (h.trans (Nat.min_eq_left hna))
        · exact Or.inr ⟨a, List.mem_cons_self, h.trans (Nat.min_eq_right hna)⟩
      · exact Or.inr ⟨b, List.mem_cons_of_mem a hb, h⟩

/-- The least value of a list that is not empty and stays below the start. -/
theorem foldl_min_mem {α : Type} {f : α → Nat} {l : List α} {n : Nat} (hl : l ≠ [])
    (hn : ∀ a ∈ l, f a ≤ n) :
    let m := l.foldl (fun n a => min n (f a)) n
    (∀ a ∈ l, m ≤ f a) ∧ ∃ a ∈ l, m = f a := by
  obtain ⟨⟨-, hall⟩, heq⟩ := foldl_min_spec f l n
  refine ⟨hall, heq.elim (fun h => ?_) id⟩
  obtain ⟨a, ha⟩ := List.exists_mem_of_ne_nil l hl
  exact ⟨a, ha, Nat.le_antisymm (hall a ha) ((hn a ha).trans_eq h.symm)⟩

namespace State

variable {s : State} {d : Degree} {g : Nat}

theorem position_groupRequest (entries : List GroupEntry) :
    (s.groupRequest d g entries).position = entries.foldl (fun n e => min n e.slot.val) 64 :=
  List.foldl_map

theorem level_groupRequest (entries : List GroupEntry) : (s.groupRequest d g entries).level =
    if ∃ e ∈ entries, ∃ c, s.ctx e.slot = some c ∧ c.priority = .high then .high else .low := by
  have h : (entries.any fun e => (s.ctx e.slot).any (·.priority == .high)) = true ↔
      ∃ e ∈ entries, ∃ c, s.ctx e.slot = some c ∧ c.priority = .high := by
    simp [Option.any_eq_true]
  show (if (entries.any fun e => (s.ctx e.slot).any (·.priority == .high)) = true then Level.high else .low) = _
  simp only [h]

/-! ## A group request written -/

theorem links_foldl {α : Type} {f : State → α → State} (hf : ∀ s a, (f s a).links = s.links) (l : List α)
    (s : State) : (l.foldl f s).links = s.links := by
  induction l generalizing s with
  | nil => rfl
  | cons a l ih => exact (ih _).trans (hf s a)

/-- R144: the requests of the link after its group request is written. -/
theorem link_setGroup (s : State) (d : Degree) (g : Nat) (entries : List GroupEntry) :
    (s.setGroup d g entries).link d =
      { s.link d with requests :=
          let others := (s.link d).requests.filter fun r =>
            r.key != .group g && !(r.holders.any (entries.map (·.slot)).contains)
          if entries.isEmpty then others else others ++ [s.groupRequest d g entries] } := by
  unfold setGroup
  rw [link_of_links (links_foldl (fun s i => ?_) _ _), setRequests, modLink, link_setLink_self]
  exact (links_syncHolds _ i).trans (links_modCtx s i _)

theorem groupRequest_mem_setGroup {entries : List GroupEntry} (h : entries ≠ []) :
    s.groupRequest d g entries ∈ ((s.setGroup d g entries).link d).requests := by
  have he : entries.isEmpty = false := by simp [h]
  rw [link_setGroup, he]
  simp

/-! ## The evaluation of a group -/

theorem mem_rampingMembers_iff {i : Slot} :
    i ∈ s.rampingMembers g ↔ ∃ c, s.ctx i = some c ∧ c.group = some g ∧ c.state = .ramping := by
  simp only [rampingMembers, List.mem_filter, allSlots, List.mem_finRange, true_and, Option.any_eq_true,
    Bool.and_eq_true, Context.memberOf, Context.live, bne_iff_ne, beq_iff_eq]
  refine exists_congr fun c => and_congr_right fun _ => ⟨fun h => ⟨h.1.2, h.2⟩, fun h => ⟨⟨?_, h.1⟩, h.2⟩⟩
  rw [h.2]
  nofun

/-- R144: every member in RAMPING is poised. -/
theorem all_poised_iff : (s.rampingMembers g).all (fun i => (s.ctx i).any (·.poised)) = true ↔
    ∀ i c, s.ctx i = some c ∧ c.group = some g ∧ c.state = .ramping → c.poised = true := by
  rw [List.all_eq_true]
  refine ⟨fun h i c hc => ?_, fun h i hi => ?_⟩
  · have := h i (mem_rampingMembers_iff.mpr ⟨c, hc⟩)
    rwa [hc.1] at this
  · obtain ⟨c, hc⟩ := mem_rampingMembers_iff.mp hi
    rw [hc.1]
    exact h i c hc

end State

open State

/-- Settles O51: the request takes its figures from its entries, and the evaluation's test is the one stated. -/
theorem groupRequestsAreFormedFromTheirEntries : Obligations.GroupRequestsAreFormedFromTheirEntries := by
  refine ⟨fun s d g entries hne hsize => ?_, ?_⟩
  · have hcommon := foldl_min_mem (f := GroupEntry.size) hne hsize
    have hpos := foldl_min_mem (f := fun e : GroupEntry => e.slot.val) hne
      (n := 64) fun e _ => Nat.le_of_lt e.slot.isLt
    rw [← position_groupRequest (s := s) (d := d) (g := g)] at hpos
    refine ⟨⟨commonSize entries, ?_, hcommon⟩, hpos⟩
    rw [← level_groupRequest (d := d) (g := g)]
    rfl
  intro s d g member entries
  refine ⟨fun hnone hpoised hne => ?_, fun h => ?_⟩
  · have hpend : ((s.link d).requestBy (.group g)).isSome = false := by rw [hnone]; rfl
    have hall := all_poised_iff.mpr hpoised
    have hempty : (s.candidateEntries g).isEmpty = false := by simpa using hne
    have heval : s.evaluateGroup d g = s.setGroup d g entries := by
      unfold evaluateGroup
      rw [hpend, hall, hempty]
      rfl
    rw [heval]
    exact ⟨(calm_setGroup s d g entries).still, groupRequest_mem_setGroup hne⟩
  · unfold evaluateGroup
    rcases h with h | ⟨i, c, hm, hc⟩ | h
    · rw [if_pos (Option.isSome_iff_ne_none.mpr h)]
    · have hnot : ¬ (s.rampingMembers g).all (fun i => (s.ctx i).any (·.poised)) = true := fun hall => by
        have := all_poised_iff.mp hall i c hm
        rw [hc] at this
        cases this
      simp [hnot]
    · have hempty : (s.candidateEntries g).isEmpty = true := by simpa using h
      simp [hempty]

end Sys2Proof.Machine
end

section
/-! SUPPORT. What a change of one record leaves of the others, and the posting test (R76, R98, R101, R121). -/

namespace Sys2Proof.Machine

namespace State

variable {s t u : State} {i : Slot} {c : Context}

/-! ## Changes of one record -/

/-- The other records change calmly. -/
def CalmOff (i : Slot) (s t : State) : Prop := ∀ j, j ≠ i → sameSlot Context.Calmly (s.ctx j) (t.ctx j)

theorem CalmOff.refl (i : Slot) (s : State) : CalmOff i s s := fun _ _ => sameSlot_refl Context.Calmly.refl _

theorem CalmOff.trans (h1 : CalmOff i s t) (h2 : CalmOff i t u) : CalmOff i s u :=
  fun j hj => sameSlot_trans Context.Calmly.trans (h1 j hj) (h2 j hj)

theorem Calm.off (h : s.Calm t) (i : Slot) : CalmOff i s t := fun j _ => h.records j

/-- The other records are as they were. -/
theorem calmOff_of_eq (h : ∀ j, j ≠ i → t.ctx j = s.ctx j) : CalmOff i s t := fun j hj => by
  rw [h j hj]
  exact sameSlot_refl Context.Calmly.refl _

theorem calmOff_modCtx (s : State) (i : Slot) (f : Context → Context) : CalmOff i s (s.modCtx i f) :=
  calmOff_of_eq fun _ hj => ctx_modCtx_of_ne s hj f

theorem calmOff_stageWord (s : State) (i : Slot) : CalmOff i s (s.stageWord i) :=
  calmOff_of_eq fun j _ => ctx_stageWord s i j

theorem ctx_lingerKeyer (s : State) (i j : Slot) : (s.lingerKeyer i).ctx j = s.ctx j := by
  unfold lingerKeyer
  repeat' split
  all_goals rfl

theorem ctx_startKeyer (s : State) (i j : Slot) : (s.startKeyer i).ctx j = s.ctx j := by
  unfold startKeyer
  repeat' split
  all_goals rfl

theorem calmOff_changeState (s : State) (i : Slot) (st : CtxState) (f : Context → Context) :
    CalmOff i s (s.changeState i st f) := by
  unfold changeState
  split
  · exact .refl i s
  · rename_i c hc
    split
    · have h1 : CalmOff i s ((s.modCtx i fun c => f (c.enter st)).stageWord i) :=
        (calmOff_modCtx s i _).trans (calmOff_stageWord _ i)
      have h2 : CalmOff i s (if st.clearsRequest then
          ((s.modCtx i fun c => f (c.enter st)).stageWord i).removeRequest i
          else (s.modCtx i fun c => f (c.enter st)).stageWord i) := by
        split
        · exact h1.trans ((calm_removeRequest _ i).off i)
        · exact h1
      dsimp only
      split
      · exact h2.trans ((calm_evaluateGroupOf _ c).off i)
      · exact h2
    · exact .refl i s

theorem calmOff_commission (s : State) (i : Slot) : CalmOff i s (s.commission i) :=
  (calmOff_changeState s i _ _).trans (calmOff_of_eq fun j _ => ctx_lingerKeyer _ i j)

theorem calmOff_release (s : State) (i : Slot) : CalmOff i s (s.release i) :=
  ((calmOff_modCtx s i _).trans (calmOff_of_eq fun j _ => ctx_startKeyer _ i j)).trans
    ((calm_markChange _ i).off i)

/-! ## A record that settles (R79, R101) -/

/-- A record settled, or commissioned at once (R82, R83, R102), from the one given. -/
def Settles (c x : Context) : Prop :=
  (x.state = .settled ∨ x.state = .commissioned) ∧ x.identity = c.identity ∧
    x.flags.short = c.flags.short ∧ x.flags.excess = c.flags.excess

theorem settles_of_calmly {c d : Context} (hst : c.state = .settled) (h : c.Calmly d) : Settles c d := by
  rw [h]
  exact ⟨Or.inl hst, rfl, rfl, rfl⟩

theorem commission_settles (hc : s.ctx i = some c) (hst : c.state = .settled) :
    ∃ x, (s.commission i).ctx i = some x ∧ Settles c x := by
  obtain ⟨x, hx, hcx⟩ := changeState_self s hc (st := .commissioned) (by rw [hst]; rfl) id
  refine ⟨x, (ctx_lingerKeyer _ i i).trans hx, ?_⟩
  rw [hcx]
  exact ⟨Or.inr rfl, rfl, rfl, rfl⟩

/-- What a TAIL's entry to SETTLED brings to its partner leaves the TAIL settled. -/
theorem partnerOfSettledTail_settles {p : Slot} (hc : s.ctx i = some c) (hst : c.state = .settled)
    (hrole : c.role = .tail) : ∃ x, (s.partnerOfSettledTail p).ctx i = some x ∧ Settles c x := by
  have hself : ∃ x, s.ctx i = some x ∧ Settles c x := ⟨c, hc, settles_of_calmly hst (.refl c)⟩
  have hoff {t : State} (h : CalmOff p s t) (hne : i ≠ p) : ∃ x, t.ctx i = some x ∧ Settles c x := by
    have e := h i hne
    rw [hc] at e
    cases ht : t.ctx i with
    | none => rw [ht] at e; exact e.elim
    | some x =>
      rw [ht] at e
      exact ⟨x, rfl, settles_of_calmly hst e⟩
  have hne {x : Context} (hx : s.ctx p = some x) (hr : x.role ≠ .tail) : i ≠ p := fun e => by
    subst e
    rw [hc] at hx
    cases hx
    exact hr hrole
  unfold partnerOfSettledTail
  split
  · exact hself
  · rename_i x hx
    split
    · rename_i hr
      split
      · exact hoff (calmOff_release s p) (hne hx (by rw [hr]; nofun))
      · exact hself
    · rename_i hr
      split
      · exact hoff (calmOff_commission s p) (hne hx (by rw [hr]; nofun))
      · exact hself
    · exact hself
    · exact hself

theorem afterSettled_settles (hc : s.ctx i = some c) (hst : c.state = .settled) :
    ∃ x, (s.afterSettled i).ctx i = some x ∧ Settles c x := by
  have hself : ∃ x, s.ctx i = some x ∧ Settles c x := ⟨c, hc, settles_of_calmly hst (.refl c)⟩
  unfold afterSettled
  rw [hc]
  dsimp only
  split
  · rename_i hr
    split
    · exact hself
    · exact partnerOfSettledTail_settles hc hst hr
  · split
    · exact commission_settles hc hst
    · exact hself
  · split
    · exact commission_settles hc hst
    · exact hself
  · exact hself

theorem settle_settles (hc : s.ctx i = some c) (hst : c.state = .ramping) (limit : Option Limit) :
    ∃ x, (s.settle i limit).ctx i = some x ∧ (x.state = .settled ∨ x.state = .commissioned) ∧
      x.identity = c.identity ∧ (limit = some .short → x.flags.short = true) ∧
      (limit = some .excess → x.flags.excess = true) := by
  obtain ⟨d, hd, hcd⟩ := changeState_self s hc (st := .settled) (by rw [hst]; rfl)
    fun c => { c with flags := c.flags.atLimit limit }
  obtain ⟨x, hx, hstate, hid, hshort, hexcess⟩ := afterSettled_settles hd (by rw [hcd]; rfl)
  refine ⟨x, hx, hstate, hid.trans (by rw [hcd]; rfl), fun h => ?_, fun h => ?_⟩
  · rw [hshort, hcd, h]
    rfl
  · rw [hexcess, hcd, h]
    rfl

/-! ## A request posted (R121, R164) -/

theorem mem_requests_postRequest (hc : s.ctx i = some c) {r : Request} (hh : r.holders = [i])
    (hk : r.key = .single i) : r ∈ ((s.postRequest i r).link c.link).requests := by
  have hlink : (s.setRequests c.link
      (((s.link c.link).requests.filter fun q => q.key != .single i) ++ [r])).link c.link =
      { s.link c.link with requests := ((s.link c.link).requests.filter fun q => q.key != .single i) ++ [r] } :=
    link_setLink_self s c.link _
  unfold postRequest
  rw [hc]
  dsimp only
  split
  · rename_i g entries _ _ _
    have hout : (r.key != .group g && !(r.holders.any
        ((entries.filter fun e => e.slot != i).map (·.slot)).contains)) = true := by
      simp [hk, hh]
    have hmem : r ∈ (((s.link c.link).requests.filter fun q => q.key != .single i) ++ [r]).filter fun q =>
        q.key != .group g && !(q.holders.any
          ((entries.filter fun e => e.slot != i).map (·.slot)).contains) :=
      List.mem_filter.mpr ⟨by simp, hout⟩
    rw [link_setGroup, hlink]
    dsimp only
    split
    · exact hmem
    · exact List.mem_append_left _ hmem
  · rw [link_of_links (links_syncHolds _ i), hlink]
    simp
  · rw [link_of_links (links_syncHolds _ i), hlink]
    simp

end State

/-- R121, R163: the STEP that a context posts, by its role and priority. -/
theorem request_step (s : State) (i : Slot) (c : Context) (direction : Direction) (size : Nat) :
    c.request s .step i c.level (some direction) (some size)
        (if c.charged then stepCharge direction (c.lastPower.getD 0) size else 0) =
      Request.mk
        (.single .step i (some direction) (some size)
          (if c.role = .tail then 0 else stepCharge direction (c.lastPower.getD 0) size))
        (if c.priority = .high then .high else .low) c.side (decide (c.role ≠ .tail)) false
        (decide (c.role ≠ .tail ∧ s.guarded c.link = true)) := by
  have hcharged : c.charged = decide (c.role ≠ .tail) := by
    unfold Context.charged Context.isTail
    rw [beq_eq_decide, ← decide_not]
  have hlevel : c.level = if c.priority = .high then .high else .low := by
    unfold Context.level
    split <;> rename_i h <;> rw [h] <;> rfl
  have hcharge : (if c.charged = true then stepCharge direction (c.lastPower.getD 0) size else 0) =
      if c.role = .tail then 0 else stepCharge direction (c.lastPower.getD 0) size := by
    rw [hcharged]
    by_cases hr : c.role = .tail <;> simp [hr]
  unfold Context.request
  rw [hcharge, hlevel]
  dsimp only
  rw [hcharged, Bool.decide_and, Bool.decide_eq_true]

open State

/-- R76, R98: what the planner says of a poised context in no group is done. -/
theorem State.postingTest_eq {s : State} {i : Slot} {c : Context} (hc : s.ctx i = some c)
    (hgroup : c.group = none) (hpoised : c.poised = true) (hheard : c.heard = false) :
    (∀ limit, c.plan s = .settle limit → s.postingTest i true = s.settle i limit) ∧
      ∀ direction size, c.plan s = .move direction size →
        s.postingTest i true = s.postStep i direction size := by
  have htest : (c.poised && !c.heard && (true || (s.requestOf c i).isNone)) = true := by
    rw [hpoised, hheard]
    rfl
  refine ⟨fun limit h => ?_, fun direction size h => ?_⟩
  · simp only [postingTest, hc, if_pos htest, h]
  · cases direction <;> simp only [postingTest, hc, if_pos htest, h, hgroup, evaluateGroupOf]

/-- Settles O50: the planner's answer settles the context or is the STEP it posts. -/
theorem postingTestSettlesOrPostsAStep : Obligations.PostingTestSettlesOrPostsAStep := by
  intro s i c hc hst hgroup hstep hfresh hcoll hheard hup p plan
  have hpoised : c.poised = true := by
    have hwait : (c.follower && c.flags.upstreamUnstable) = false := by
      unfold Context.head at hup
      unfold Context.follower
      cases hr : c.role <;> simp [hr] at hup ⊢ <;> exact hup
    simp [Context.poised, hst, hstep, hfresh, hcoll, hwait]
  obtain ⟨hsettle, hmove⟩ := postingTest_eq hc hgroup hpoised hheard
  refine ⟨fun limit h => ?_, fun direction size h => ?_⟩
  · rw [hsettle limit h]
    exact settle_settles hc hst limit
  · have hpost : s.postingTest i true = s.postRequest i
        (c.request s .step i c.level (some direction) (some size)
          (if c.charged then stepCharge direction (c.lastPower.getD 0) size else 0)) := by
      rw [hmove direction size h, postStep, hc]
    have hcalm := calm_postRequest s i
      (c.request s .step i c.level (some direction) (some size)
        (if c.charged then stepCharge direction (c.lastPower.getD 0) size else 0))
    rw [← hpost] at hcalm
    refine ⟨hcalm.still, hcalm.keyers, hcalm.budgets, hcalm.records, ?_⟩
    rw [hpost, request_step]
    exact mem_requests_postRequest hc rfl rfl

end Sys2Proof.Machine
end

section
/-! SUPPORT. The end of a visit, stage by stage: the total powers and the census (R58, R61), what the Context
Table and the arbiters leave (R66 to R68), the excursion test (R153), and the next visit (R53 to R57). -/

namespace Sys2Proof.Machine

/-- Degree flags that only rise (R186). -/
structure DegreeFlags.Rises (f g : DegreeFlags) : Prop where
  guardEntered : f.guardEntered = true → g.guardEntered = true
  guardLeft : f.guardLeft = true → g.guardLeft = true
  censusFull : f.censusFull = true → g.censusFull = true
  saturated : f.saturated = true → g.saturated = true

theorem DegreeFlags.Rises.refl (f : DegreeFlags) : f.Rises f := ⟨id, id, id, id⟩

theorem DegreeFlags.Rises.trans {f g h : DegreeFlags} (h1 : f.Rises g) (h2 : g.Rises h) : f.Rises h :=
  ⟨h2.guardEntered ∘ h1.guardEntered, h2.guardLeft ∘ h1.guardLeft, h2.censusFull ∘ h1.censusFull,
    h2.saturated ∘ h1.saturated⟩

namespace State

variable {s t u : State}

/-! ## What every stage of a visit end leaves -/

/-- What the scanner, the Excursion Monitor and the arbiters leave of the rest of the part. -/
structure Apart (s t : State) : Prop where
  part : t.part = s.part
  config : t.config = s.config
  timebase : t.timebase = s.timebase
  buffer : t.buffer = s.buffer
  spiOut : t.spiOut = s.spiOut
  mask : t.mask = s.mask
  pending : t.pending = s.pending
  rises : ∀ d : Degree, (s.events.degree[d]).Rises (t.events.degree[d])

theorem Apart.refl (s : State) : s.Apart s := ⟨rfl, rfl, rfl, rfl, rfl, rfl, rfl, fun _ => .refl _⟩

theorem Apart.trans (h1 : s.Apart t) (h2 : t.Apart u) : s.Apart u :=
  ⟨h2.part.trans h1.part, h2.config.trans h1.config, h2.timebase.trans h1.timebase,
    h2.buffer.trans h1.buffer, h2.spiOut.trans h1.spiOut, h2.mask.trans h1.mask,
    h2.pending.trans h1.pending, fun d => (h1.rises d).trans (h2.rises d)⟩

theorem apart_of_still (h : t.still = s.still) : s.Apart t :=
  ⟨congrArg Still.part h, congrArg Still.config h, congrArg Still.timebase h, congrArg Still.buffer h,
    congrArg Still.spiOut h, congrArg Still.mask h, congrArg Still.pending h, fun d => by
      rw [degreeEvents_of_still h]
      exact .refl _⟩

theorem degree_markDegree (hp : s.part ≠ .restarting) (d e : Degree) (f : DegreeFlags → DegreeFlags) :
    (s.markDegree d f).events.degree[e] =
      if d = e then f s.events.degree[d] else s.events.degree[e] := by
  unfold markDegree
  rw [if_neg hp]
  simp only [setEvents_events, Fin.getElem_fin, Vector.getElem_set, Fin.ext_iff]

theorem apart_markDegree (s : State) (d : Degree) {f : DegreeFlags → DegreeFlags}
    (hf : ∀ x : DegreeFlags, x.Rises (f x)) : s.Apart (s.markDegree d f) := by
  by_cases hp : s.part = .restarting
  · have he : s.markDegree d f = s := by
      unfold markDegree
      rw [if_pos hp]
    rw [he]
    exact .refl s
  · have he : s.markDegree d f = s.setEvents
        { s.events with
          degree := s.events.degree.set d (f s.events.degree[d])
          attn := s.events.attn || s.mask.degree } := by
      unfold markDegree
      rw [if_neg hp]
    refine ⟨by rw [he]; rfl, by rw [he]; rfl, by rw [he]; rfl, by rw [he]; rfl, by rw [he]; rfl,
      by rw [he]; rfl, by rw [he]; rfl, fun e => ?_⟩
    rw [degree_markDegree hp]
    split
    · rename_i h
      rw [← h]
      exact hf _
    · exact .refl _

theorem markDegree_still_but_flags (s : State) (d : Degree) (f : DegreeFlags → DegreeFlags) :
    s.markDegree d f = { s with events := (s.markDegree d f).events } := by
  unfold markDegree
  split <;> rfl

/-! ## Total powers and census (R58, R61) -/

/-- The census of a tap after the two passes over a visit (R61). -/
def censusAfter (s : State) (v : Tap) (reading : VisitReading) : List CensusEntry :=
  (secondPass (s.watched v) (toneReport s.cfg.presence reading)
    (firstPass s.cfg.stabilityLevel (toneReport s.cfg.presence reading) (s.tap v).census)).1

/-- The state in which the Context Table receives the report of a visit. -/
def reported (s : State) (v : Tap) (reading : VisitReading) : State :=
  (s.capturePower v reading).updateCensus v reading

theorem capturePower_eq (s : State) (v : Tap) (reading : VisitReading) : s.capturePower v reading =
    { s.setTap v { s.tap v with latest := some (readingOf reading.total), prior := (s.tap v).latest } with
      events := (s.capturePower v reading).events } := by
  unfold capturePower
  dsimp only
  split
  · exact markDegree_still_but_flags _ _ _
  · rfl

theorem updateCensus_eq (s : State) (v : Tap) (reading : VisitReading) : s.updateCensus v reading =
    { s.setTap v { s.tap v with census := s.censusAfter v reading } with
      events := (s.updateCensus v reading).events } := by
  unfold updateCensus
  dsimp only
  split
  · exact markDegree_still_but_flags _ _ _
  · rfl

/-- R58, R61: the tap of the visit alone is written. -/
theorem reported_eq (s : State) (v : Tap) (reading : VisitReading) : s.reported v reading =
    { s.setTap v
        { latest := some (readingOf reading.total), prior := (s.tap v).latest
          census := s.censusAfter v reading } with
      events := (s.reported v reading).events } := by
  obtain ⟨c, hc⟩ : ∃ c, c = s.capturePower v reading := ⟨_, rfl⟩
  have heq : c = { s.setTap v { s.tap v with latest := some (readingOf reading.total), prior := (s.tap v).latest } with
      events := c.events } := hc ▸ capturePower_eq s v reading
  have htap : c.tap v = { s.tap v with latest := some (readingOf reading.total), prior := (s.tap v).latest } := by
    rw [heq]
    exact tap_setTap_self _ v _
  have hcensus : c.censusAfter v reading = s.censusAfter v reading := by
    have hwatched : c.watched v = s.watched v := by
      rw [heq]
      rfl
    have hcfg : c.cfg = s.cfg := by
      rw [heq]
      rfl
    rw [censusAfter, hwatched, hcfg, htap]
    rfl
  have hset (r : TapRecord) : c.setTap v r = { s.setTap v r with events := c.events } := by
    conv_lhs => rw [heq]
    simp [setTap, Vector.set_set]
  have h2 := updateCensus_eq c v reading
  rw [hset, hcensus, htap] at h2
  unfold reported
  rw [← hc]
  exact h2

theorem apart_setTap (s : State) (v : Tap) (r : TapRecord) : s.Apart (s.setTap v r) :=
  ⟨rfl, rfl, rfl, rfl, rfl, rfl, rfl, fun _ => .refl _⟩

theorem apart_capturePower (s : State) (v : Tap) (reading : VisitReading) : s.Apart (s.capturePower v reading) := by
  unfold capturePower
  dsimp only
  split
  · exact (apart_setTap s v _).trans (apart_markDegree _ _ fun _ => ⟨id, id, id, fun _ => rfl⟩)
  · exact apart_setTap s v _

theorem apart_updateCensus (s : State) (v : Tap) (reading : VisitReading) : s.Apart (s.updateCensus v reading) := by
  unfold updateCensus
  dsimp only
  split
  · exact (apart_setTap s v _).trans (apart_markDegree _ _ fun _ => ⟨id, id, fun _ => rfl, id⟩)
  · exact apart_setTap s v _

theorem apart_reported (s : State) (v : Tap) (reading : VisitReading) : s.Apart (s.reported v reading) :=
  (apart_capturePower s v reading).trans (apart_updateCensus _ v reading)

/-- R58: a SATURATED total power sets the degree's flag. -/
theorem saturated_reported (hp : s.part ≠ .restarting) {v : Tap} {reading : VisitReading}
    (h : (readingOf reading.total).saturated = true) :
    (s.reported v reading).events.degree[tapDegree v].saturated = true := by
  refine ((apart_updateCensus _ v reading).rises _).saturated ?_
  unfold capturePower
  dsimp only
  rw [if_pos h, degree_markDegree (s := s.setTap v _) hp, if_pos rfl]

/-! ## The Context Table and the arbiters (R66 to R68, R165) -/

/-- A part without the arbiters' wait (log entry 5). -/
def deciding (s : State) : Still := { s.still with arbiterWaits := false }

/-- The Context Table and the arbiters have acted. -/
structure Acts (s t : State) : Prop where
  still : t.deciding = s.deciding
  budgets : ∀ d, Budget.Spends (s.budget d) (t.budget d)

theorem Acts.trans (h1 : s.Acts t) (h2 : t.Acts u) : s.Acts u :=
  ⟨h2.still.trans h1.still, fun d => (h1.budgets d).trans (h2.budgets d)⟩

theorem MovesBy.acts {R : Context → Context → Prop} (h : s.MovesBy R t) : s.Acts t :=
  ⟨congrArg (fun v : Still => { v with arbiterWaits := false }) h.still, h.budgets⟩

theorem acts_setWaits (s : State) (b : Bool) : s.Acts (s.setWaits b) := ⟨rfl, fun _ => .same _⟩

theorem Acts.tae (h : s.Acts t) : t.tae = s.tae := congrArg Still.tae h.still

theorem Acts.guards (h : s.Acts t) : t.guards = s.guards := congrArg Still.guards h.still

theorem Acts.apart (h : s.Acts t) : s.Apart t := by
  have h := h.still
  refine ⟨(congrArg Still.part h :), (congrArg Still.config h :), (congrArg Still.timebase h :),
    (congrArg Still.buffer h :), (congrArg Still.spiOut h :), (congrArg Still.mask h :),
    (congrArg Still.pending h :), fun d => ?_⟩
  have hd : t.events.degree = s.events.degree := congrArg Still.degreeFlags h
  rw [hd]
  exact .refl _

/-- R68, R153, R165: at each moment of the arbiters' decisions the excursion test stands between what the
Context Table and the arbiters do. -/
theorem useReport_split (s : State) (v : Tap) (moment : ArbiterMoment) :
    ∃ a, s.Acts a ∧ (a.testExcursion v).Acts (s.useReport v moment) := by
  have hreceive (s : State) : s.Acts (s.receiveAll v) := (moves_receiveAll s v).acts
  have hdecide (s : State) : s.Acts s.arbitrate := (decides_arbitrate s).acts
  cases moment with
  | atPosting => exact ⟨s.receiveAll v, hreceive s, hdecide _⟩
  | afterTakings =>
    exact ⟨((((s.setWaits true).receiveAll v).setWaits false).arbitrate),
      (((acts_setWaits s true).trans (hreceive _)).trans (acts_setWaits _ false)).trans (hdecide _), hdecide _⟩
  | afterTest =>
    exact ⟨(s.setWaits true).receiveAll v, (acts_setWaits s true).trans (hreceive _),
      (acts_setWaits _ false).trans (hdecide _)⟩

/-! ## The guard state (R155 to R158) -/

theorem guarded_setGuard (s : State) (d : Degree) (g : Guard) : (s.setGuard d g).guarded d = (g.auto || g.forced) := by
  unfold guarded
  rw [guard_setGuard_self]

theorem guard_of_guards (h : t.guards = s.guards) (d : Degree) : t.guard d = s.guard d := by
  simp only [State.guard, h]

theorem guarded_of_guards (h : t.guards = s.guards) (d : Degree) : t.guarded d = s.guarded d := by
  simp only [guarded, guard_of_guards h]

theorem putGuard_of_entered {d : Degree} {g : Guard} (h : s.guarded d = false) (hg : (g.auto || g.forced) = true) :
    s.putGuard d g = (s.setGuard d g).enterGuard d := by
  unfold putGuard
  dsimp only
  rw [guarded_setGuard, h, hg]
  rfl

theorem putGuard_of_left {d : Degree} {g : Guard} (h : s.guarded d = true) (hg : (g.auto || g.forced) = false) :
    s.putGuard d g = (s.setGuard d g).leaveGuard d := by
  unfold putGuard
  dsimp only
  rw [guarded_setGuard, h, hg]
  rfl

theorem putGuard_of_same {d : Degree} {g : Guard} (h : s.guarded d = (g.auto || g.forced)) :
    s.putGuard d g = s.setGuard d g := by
  unfold putGuard
  dsimp only
  rw [guarded_setGuard, h]
  cases (g.auto || g.forced) <;> rfl

theorem apart_setBudget (s : State) (d : Degree) (b : Budget) : s.Apart (s.setBudget d b) :=
  ⟨rfl, rfl, rfl, rfl, rfl, rfl, rfl, fun _ => .refl _⟩

theorem startWindow_eq (s : State) (d : Degree) (cause : StartCause) : s.startWindow d cause =
    (s.setBudget d { s.budget d with window := some (s.windowAt d cause) }).modRequests d
      fun r => { r with budgetHold := false } := rfl

theorem apart_startWindow (s : State) (d : Degree) (cause : StartCause) : s.Apart (s.startWindow d cause) := by
  rw [startWindow_eq]
  exact (apart_setBudget s d _).trans (apart_of_still (calm_modRequests _ d _).still)

theorem apart_modRequests (s : State) (d : Degree) (f : Request → Request) : s.Apart (s.modRequests d f) :=
  apart_of_still (calm_modRequests s d f).still

theorem apart_enterGuard (s : State) (d : Degree) : s.Apart (s.enterGuard d) :=
  (apart_markDegree s d (f := fun f => { f with guardEntered := true }) fun _ => ⟨fun _ => rfl, id, id, id⟩).trans
    (apart_modRequests _ d _)

theorem apart_leaveGuard (s : State) (d : Degree) : s.Apart (s.leaveGuard d) :=
  ((apart_markDegree s d (f := fun f => { f with guardLeft := true }) fun _ => ⟨id, fun _ => rfl, id, id⟩).trans
    (apart_startWindow _ d _)).trans (apart_modRequests _ d _)

theorem apart_setGuard (s : State) (d : Degree) (g : Guard) : s.Apart (s.setGuard d g) :=
  ⟨rfl, rfl, rfl, rfl, rfl, rfl, rfl, fun _ => .refl _⟩

theorem apart_putGuard (s : State) (d : Degree) (g : Guard) : s.Apart (s.putGuard d g) := by
  unfold putGuard
  dsimp only
  split
  · exact (apart_setGuard s d g).trans (apart_enterGuard _ d)
  · split
    · exact (apart_setGuard s d g).trans (apart_leaveGuard _ d)
    · exact apart_setGuard s d g

theorem guards_of_still (h : t.still = s.still) : t.guards = s.guards := congrArg Still.guards h

theorem tae_of_still (h : t.still = s.still) : t.tae = s.tae := congrArg Still.tae h

/-- The monitors and the scanner are as they were. -/
def Watches (s t : State) : Prop := t.guards = s.guards ∧ t.tae = s.tae

theorem Watches.trans (h1 : Watches s t) (h2 : Watches t u) : Watches s u :=
  ⟨h2.1.trans h1.1, h2.2.trans h1.2⟩

theorem watches_modRequests (s : State) (d : Degree) (f : Request → Request) : Watches s (s.modRequests d f) :=
  have h := (calm_modRequests s d f).still
  ⟨guards_of_still h, tae_of_still h⟩

theorem watches_startWindow (s : State) (d : Degree) (cause : StartCause) : Watches s (s.startWindow d cause) := by
  have h1 : Watches s (s.setBudget d { s.budget d with window := some (s.windowAt d cause) }) := ⟨rfl, rfl⟩
  rw [startWindow_eq]
  exact h1.trans (watches_modRequests _ d _)

theorem watches_markDegree (s : State) (d : Degree) (f : DegreeFlags → DegreeFlags) :
    Watches s (s.markDegree d f) := by
  rw [markDegree_still_but_flags]
  exact ⟨rfl, rfl⟩

theorem watches_enterGuard (s : State) (d : Degree) : Watches s (s.enterGuard d) := by
  unfold enterGuard
  exact (watches_markDegree s d _).trans (watches_modRequests _ d _)

theorem watches_leaveGuard (s : State) (d : Degree) : Watches s (s.leaveGuard d) := by
  unfold leaveGuard
  exact ((watches_markDegree s d _).trans (watches_startWindow _ d _)).trans (watches_modRequests _ d _)

/-- R152: the monitor of one degree is written, and the scanner is as it was. -/
theorem watches_putGuard (s : State) (d : Degree) (g : Guard) : Watches (s.setGuard d g) (s.putGuard d g) := by
  unfold putGuard
  dsimp only
  split
  · exact watches_enterGuard _ d
  · split
    · exact watches_leaveGuard _ d
    · exact ⟨rfl, rfl⟩

/-- R156: entry to GUARDED sets its flag. -/
theorem guardEntered_enterGuard (hp : s.part ≠ .restarting) (d : Degree) :
    (s.enterGuard d).events.degree[d].guardEntered = true := by
  unfold enterGuard
  refine ((apart_modRequests _ d _).rises d).guardEntered ?_
  rw [degree_markDegree hp, if_pos rfl]

/-- R158: entry to OPEN sets its flag. -/
theorem guardLeft_leaveGuard (hp : s.part ≠ .restarting) (d : Degree) :
    (s.leaveGuard d).events.degree[d].guardLeft = true := by
  unfold leaveGuard
  refine ((apart_modRequests _ d _).rises d).guardLeft (((apart_startWindow _ d .guardExit).rises d).guardLeft ?_)
  rw [degree_markDegree hp, if_pos rfl]

theorem budget_of_budgets (h : t.budgets = s.budgets) (d : Degree) : t.budget d = s.budget d := by
  simp only [budget, h]

theorem budget_startWindow (s : State) (d e : Degree) (cause : StartCause) : (s.startWindow d cause).budget e =
    if d = e then { s.budget d with window := some (s.windowAt d cause) } else s.budget e := by
  rw [startWindow_eq, budget_of_budgets (calm_modRequests _ d _).budgets, budget_setBudget]

theorem windowAt_markDegree (s : State) (d e : Degree) (f : DegreeFlags → DegreeFlags) (cause : StartCause) :
    (s.markDegree d f).windowAt e cause = s.windowAt e cause := by
  rw [markDegree_still_but_flags]
  rfl

theorem budgets_markDegree (s : State) (d : Degree) (f : DegreeFlags → DegreeFlags) :
    (s.markDegree d f).budgets = s.budgets := by
  rw [markDegree_still_but_flags]

/-- R158: entry to OPEN starts a window. -/
theorem budget_leaveGuard (s : State) (d e : Degree) : (s.leaveGuard d).budget e =
    if d = e then { s.budget d with window := some (s.windowAt d .guardExit) } else s.budget e := by
  unfold leaveGuard
  rw [budget_of_budgets (calm_modRequests _ d _).budgets, budget_startWindow, windowAt_markDegree,
    budget_of_budgets (budgets_markDegree s d _), budget_of_budgets (budgets_markDegree s d _)]

end State

end Sys2Proof.Machine
end

section
/-! SUPPORT. The next visit (R53 to R57, R70), and what a visit end leaves of the part (R58, R180). -/

namespace Sys2Proof.Machine

namespace State

variable {s t u : State}

/-! ## The next visit (R53 to R57) -/

/-- R56: the queue after the LINE_OUT taps of the GUARDED degrees are enqueued. -/
def guardedQueue (s : State) (v : Tap) : List Tap :=
  ((allDegrees.filter fun d => s.guarded d && lineOut d != v).map lineOut).foldl (fun q u => enqueueTap u q)
    s.tae.queue

theorem enqueueGuarded_eq (s : State) (v : Tap) :
    s.enqueueGuarded v = { s with tae := { s.tae with queue := s.guardedQueue v } } := by
  have key (l : List Degree) : ∀ q : List Tap,
      l.foldl (fun t d => if t.guarded d && lineOut d != v then t.enqueue (lineOut d) else t)
        { s with tae := { s.tae with queue := q } } =
      { s with tae := { s.tae with queue :=
        ((l.filter fun d => s.guarded d && lineOut d != v).map lineOut).foldl (fun q u => enqueueTap u q) q } } := by
    induction l with
    | nil => exact fun _ => rfl
    | cons d l ih =>
      intro q
      have hg : ({ s with tae := { s.tae with queue := q } } : State).guarded d = s.guarded d := rfl
      rw [List.foldl_cons, hg, List.filter_cons]
      split
      · exact ih _
      · exact ih q
  exact key allDegrees s.tae.queue

/-- The scanner alone is written, its taps stay, and no visit has ended. -/
theorem beginRoundRobin_eq (s : State) : s.beginRoundRobin = { s with tae := s.beginRoundRobin.tae } ∧
    s.beginRoundRobin.tae.taps = s.tae.taps ∧ s.beginRoundRobin.tae.ended = false := by
  unfold beginRoundRobin
  split <;> exact ⟨rfl, rfl, rfl⟩

theorem chooseVisit_eq (s : State) : s.chooseVisit = { s with tae := s.chooseVisit.tae } ∧
    s.chooseVisit.tae.taps = s.tae.taps ∧ s.chooseVisit.tae.ended = false := by
  unfold chooseVisit
  split
  · split
    · exact ⟨rfl, rfl, rfl⟩
    · exact beginRoundRobin_eq s
  · exact beginRoundRobin_eq s

theorem find?_allTaps {p : Tap → Bool} {u : Tap} (h : allTaps.find? p = some u) :
    p u = true ∧ ∀ x, p x = true → u ≤ x := by
  obtain ⟨hu, i, hi, hget, hall⟩ := List.find?_eq_some_iff_getElem.mp h
  refine ⟨hu, fun x hx => not_lt.mp fun hlt => ?_⟩
  have hui : i = u.val := by
    rw [← hget]
    simp [allTaps]
  have hx' := hall x.val (by rw [hui]; exact hlt)
  have hget' : allTaps[x.val]'(by simp [allTaps]) = x := by simp [allTaps]
  rw [hget', hx] at hx'
  cases hx'

theorem find?_allTaps_eq_none {p : Tap → Bool} (h : allTaps.find? p = none) (x : Tap) : p x = false := by
  have := List.find?_eq_none.mp h x (by simp [allTaps])
  simpa using this

/-- R53: the tap is the next scanned one above a scan pointer, or else the lowest. -/
def NextScanned (s : State) (u : Tap) : Prop :=
  s.present (tapDegree u) = true ∧ ∀ x, s.present (tapDegree x) = true →
    (s.tae.scanPointer = none → u ≤ x) ∧
    ∀ q, s.tae.scanPointer = some q → (q < u → q < x → u ≤ x) ∧ (u ≤ q → x ≤ q ∧ u ≤ x)

theorem roundRobin_spec (h : ∃ d, s.present d = true) :
    ∃ u, s.roundRobin = some u ∧ s.NextScanned u := by
  obtain ⟨d, hd⟩ := h
  have hdeg : s.scanned (lineIn d) = true := by
    have e : tapDegree (lineIn d) = d := Fin.ext (by simp [tapDegree, lineIn, tapOf])
    unfold scanned
    rw [e]
    exact hd
  unfold roundRobin NextScanned
  dsimp only
  split
  · rename_i u hu
    obtain ⟨hpu, hmin⟩ := find?_allTaps hu
    obtain ⟨hsu, hpoint⟩ := Bool.and_eq_true_iff.mp hpu
    refine ⟨u, rfl, hsu, fun x hx => ⟨fun hn => hmin x ?_, fun q hq => ⟨fun _ hqx => hmin x ?_, fun huq => ?_⟩⟩⟩
    · rw [hn]
      simpa [scanned] using hx
    · rw [hq]
      simpa [scanned, hqx] using hx
    · rw [hq] at hpoint
      have hlt : q < u := by simpa using hpoint
      exact absurd (hlt.trans_le huq) (lt_irrefl q)
  · rename_i hnone
    cases hu : allTaps.find? fun t => s.scanned t with
    | none =>
      have := find?_allTaps_eq_none hu (lineIn d)
      rw [hdeg] at this
      cases this
    | some u =>
      obtain ⟨hsu, hmin⟩ := find?_allTaps hu
      refine ⟨u, rfl, hsu, fun x hx => ⟨fun _ => hmin x hx, fun q hq => ?_⟩⟩
      have hbelow (y : Tap) (hy : s.scanned y = true) : y ≤ q := by
        have := find?_allTaps_eq_none hnone y
        rw [hy, hq] at this
        simpa using this
      exact ⟨fun hqu => absurd (hqu.trans_le (hbelow u hsu)) (lt_irrefl q), fun _ => ⟨hbelow x hx, hmin x hx⟩⟩

theorem beginRoundRobin_of_some {v : Tap} (h : s.roundRobin = some v) :
    s.beginRoundRobin = { s with tae := { s.tae with
      visit := some v, scanPointer := some v, priorityRun := 0, visits := s.tae.visits + 1, ended := false } } := by
  unfold beginRoundRobin
  rw [h]

theorem chooseVisit_of_priority {v : Tap} {rest : List Tap} (hq : s.tae.queue = v :: rest)
    (h : s.tae.priorityRun < 3) : s.chooseVisit = { s with tae := { s.tae with
      visit := some v, queue := rest, priorityRun := s.tae.priorityRun + 1
      visits := s.tae.visits + 1, ended := false } } := by
  unfold chooseVisit
  rw [hq]
  dsimp only
  rw [if_pos h]

theorem chooseVisit_of_scan (h : s.tae.queue = [] ∨ 3 ≤ s.tae.priorityRun) : s.chooseVisit = s.beginRoundRobin := by
  unfold chooseVisit
  split
  · rename_i hq
    rw [if_neg]
    rcases h with h | h
    · rw [h] at hq
      cases hq
    · exact not_lt.mpr h
  · rfl

/-! ## The end of a visit -/

/-- The state that a visit end leaves when the arbiters have decided, before the next visit is chosen. -/
def judged (s : State) (v : Tap) (reading : VisitReading) (moment : ArbiterMoment) : State :=
  (s.reported v reading).useReport v moment

theorem endVisit_eq (s : State) (v : Tap) (reading : VisitReading) (moment : ArbiterMoment) :
    s.endVisit v reading moment = ((s.judged v reading moment).enqueueGuarded v).chooseVisit := rfl

theorem endedVisit_eq_none (h : s.part ≠ .run ∨ s.tae.ended = false ∨ s.tae.visit = none) : s.endedVisit = none := by
  unfold endedVisit
  split
  · rename_i hc
    rcases h with h | h | h
    · exact absurd hc.1 h
    · rw [h] at hc
      cases hc.2
    · exact h
  · rfl

theorem endedVisit_eq_some {v : Tap} (hp : s.part = .run) (he : s.tae.ended = true) (hv : s.tae.visit = some v) :
    s.endedVisit = some v := by
  unfold endedVisit
  rw [if_pos ⟨hp, he⟩, hv]

theorem watches_testExcursion (s : State) (v : Tap) : (s.testExcursion v).tae = s.tae := by
  unfold testExcursion
  split
  · exact (watches_putGuard s _ _).2
  · rfl

theorem apart_testExcursion (s : State) (v : Tap) : s.Apart (s.testExcursion v) := by
  unfold testExcursion
  split
  · exact apart_putGuard s _ _
  · exact .refl s

/-- The scanner of the report is the one the visit is chosen from. -/
theorem tae_judged (s : State) (v : Tap) (reading : VisitReading) (moment : ArbiterMoment) :
    (s.judged v reading moment).tae = (s.reported v reading).tae := by
  obtain ⟨a, h1, h2⟩ := useReport_split (s.reported v reading) v moment
  exact (h2.tae.trans (watches_testExcursion a v)).trans h1.tae

theorem apart_judged (s : State) (v : Tap) (reading : VisitReading) (moment : ArbiterMoment) :
    s.Apart (s.judged v reading moment) := by
  obtain ⟨a, h1, h2⟩ := useReport_split (s.reported v reading) v moment
  exact ((apart_reported s v reading).trans (h1.apart.trans (apart_testExcursion a v))).trans h2.apart

/-- The choice of the next visit writes the scanner's queue and visit alone. -/
theorem endVisit_spec (s : State) (v : Tap) (reading : VisitReading) (moment : ArbiterMoment) :
    s.endVisit v reading moment =
        { s.judged v reading moment with tae := (s.endVisit v reading moment).tae } ∧
      (s.endVisit v reading moment).tae.taps = (s.reported v reading).tae.taps ∧
      (s.endVisit v reading moment).tae.ended = false := by
  obtain ⟨heq, htaps, hended⟩ := chooseVisit_eq ((s.judged v reading moment).enqueueGuarded v)
  rw [← endVisit_eq] at heq htaps hended
  refine ⟨?_, htaps.trans ?_, hended⟩
  · rw [enqueueGuarded_eq] at heq
    exact heq
  · rw [enqueueGuarded_eq, tae_judged]

theorem taps_reported (s : State) (v : Tap) (reading : VisitReading) (w : Tap) : (s.reported v reading).tap w =
    if v = w then { latest := some (readingOf reading.total), prior := (s.tap v).latest
                    census := s.censusAfter v reading }
    else s.tap w := by
  rw [reported_eq]
  exact tap_setTap s v w _

theorem tap_endVisit (s : State) (v : Tap) (reading : VisitReading) (moment : ArbiterMoment) (w : Tap) :
    (s.endVisit v reading moment).tap w = (s.reported v reading).tap w := by
  simp only [tap, (endVisit_spec s v reading moment).2.1]

theorem apart_endVisit (s : State) (v : Tap) (reading : VisitReading) (moment : ArbiterMoment) :
    s.Apart (s.endVisit v reading moment) := by
  have h := (apart_judged s v reading moment)
  rw [(endVisit_spec s v reading moment).1]
  exact ⟨h.part, h.config, h.timebase, h.buffer, h.spiOut, h.mask, h.pending, h.rises⟩

end State

open State

theorem exec_visitEnd (reading : VisitReading) (moment : ArbiterMoment) (s : State) :
    exec (.visitEnd reading moment) s = execVisitEnd reading moment s := rfl

theorem exec_visitEnd_of_none {s : State} {reading : VisitReading} {moment : ArbiterMoment}
    (h : s.endedVisit = none) : exec (.visitEnd reading moment) s = .next s := by
  rw [exec_visitEnd, execVisitEnd, h]

theorem exec_visitEnd_of_some {s : State} {reading : VisitReading} {moment : ArbiterMoment} {v : Tap}
    (h : s.endedVisit = some v) :
    exec (.visitEnd reading moment) s = .next (s.endVisit v reading moment) := by
  rw [exec_visitEnd, execVisitEnd, h]

/-- Settles O41: the taps are written before the report is used, and the rest goes through every stage. -/
theorem visitEndMovesTheTotalPowers : Obligations.VisitEndMovesTheTotalPowers := by
  intro s reading moment
  refine ⟨fun h => exec_visitEnd_of_none (endedVisit_eq_none h), fun v hp he hv => ?_⟩
  have hapart := apart_endVisit s v reading moment
  have htap := tap_endVisit s v reading moment
  have hended := (endVisit_spec s v reading moment).2.2
  have hgoes := goes_endVisit hp v reading moment
  have hsat : 316227 ≤ reading.total →
      (s.endVisit v reading moment).events.degree[tapDegree v].saturated = true := fun h => by
    obtain ⟨a, h1, h2⟩ := useReport_split (s.reported v reading) v moment
    have hrises := ((h1.apart.trans (apart_testExcursion a v)).trans h2.apart).rises (tapDegree v)
    rw [(endVisit_spec s v reading moment).1]
    refine hrises.saturated (saturated_reported (by rw [hp]; nofun) ?_)
    exact decide_eq_true h
  have hself := (htap v).trans ((taps_reported s v reading v).trans (if_pos rfl))
  refine ⟨_, exec_visitEnd_of_some (endedVisit_eq_some hp he hv), ?_, ?_, fun u hu => ?_, hsat, hended,
    hapart.part, hapart.config, hapart.timebase, hapart.buffer, hapart.spiOut, hapart.mask, hapart.pending,
    hgoes.records⟩
  · rw [hself]
    rfl
  · rw [hself]
  · exact (htap u).trans ((taps_reported s v reading u).trans (if_neg (Ne.symm hu)))

theorem exec_scanStart (s : State) : exec .scanStart s = .next (if s.scanDue then s.beginRoundRobin else s) := rfl

/-- R50: the lowest tap of the lowest present degree is the lowest scanned tap. -/
theorem roundRobin_of_start {s : State} {d : Degree} (hpointer : s.tae.scanPointer = none)
    (hd : s.present d = true) (hlow : ∀ e, e < d → s.present e = false) : s.roundRobin = some (lineIn d) := by
  obtain ⟨u, hu, hpres, hmin⟩ := roundRobin_spec ⟨d, hd⟩
  have hdeg : tapDegree (lineIn d) = d := Fin.ext (by simp [tapDegree, lineIn, tapOf])
  have hle : u ≤ lineIn d := (hmin (lineIn d) (by rw [hdeg]; exact hd)).1 hpointer
  have hge : d ≤ tapDegree u := not_lt.mp fun hlt => by
    rw [hlow _ hlt] at hpres
    cases hpres
  have heq : u = lineIn d := by
    refine Fin.ext ?_
    have h1 : u.val ≤ 4 * d.val := hle
    have h2 : d.val ≤ u.val / 4 := hge
    show u.val = 4 * d.val
    omega
  rw [hu, heq]

/-- Settles O44: the queue's head or the round robin's tap, after the taps of the GUARDED degrees are enqueued. -/
theorem theNextVisitIsChosen : Obligations.TheNextVisitIsChosen := by
  refine ⟨fun s reading moment v hp he hv hpres => ?_, fun s => ⟨fun h => ?_, fun d hp he hv hpt hd hlow => ?_⟩⟩
  · refine ⟨_, exec_visitEnd_of_some (endedVisit_eq_some hp he hv), ?_⟩
    intro due queue
    obtain ⟨w, hw⟩ : ∃ w, w = (s.judged v reading moment).enqueueGuarded v := ⟨_, rfl⟩
    have htae : (s.judged v reading moment).tae = { s.tae with taps := (s.reported v reading).tae.taps } := by
      rw [tae_judged, reported_eq]
      rfl
    have hguards : (s.endVisit v reading moment).guards = (s.judged v reading moment).guards := by
      rw [(endVisit_spec s v reading moment).1]
    have hqueue : w.tae.queue = queue := by
      have hguarded (d : Degree) :
          (s.endVisit v reading moment).guarded d = (s.judged v reading moment).guarded d :=
        guarded_of_guards hguards d
      rw [hw, enqueueGuarded_eq]
      show (s.judged v reading moment).guardedQueue v = queue
      unfold guardedQueue
      rw [htae]
      simp only [queue, due, hguarded]
      rfl
    have hrun : w.tae.priorityRun = s.tae.priorityRun := by
      rw [hw, enqueueGuarded_eq, htae]
    have hpointer : w.tae.scanPointer = s.tae.scanPointer := by
      rw [hw, enqueueGuarded_eq, htae]
    have hconfig : w.config = s.config := by
      rw [hw, enqueueGuarded_eq]
      exact (apart_judged s v reading moment).config
    have hpresent (d : Degree) : w.present d = s.present d := present_of_config hconfig d
    rw [endVisit_eq, ← hw]
    refine ⟨fun u rest hq hlt => ?_, fun h => ?_⟩
    · rw [chooseVisit_of_priority (hqueue.trans hq) (by rw [hrun]; exact hlt)]
      exact ⟨rfl, rfl, congrArg (· + 1) hrun, hpointer⟩
    · obtain ⟨u, hu, hpu, hnext⟩ := roundRobin_spec (s := w) (by simpa only [hpresent] using hpres)
      rw [chooseVisit_of_scan (by rwa [hqueue, hrun]), beginRoundRobin_of_some hu]
      simp only [hpresent, hpointer] at hpu hnext
      exact ⟨u, rfl, rfl, hqueue, rfl, hpu, hnext⟩
  · rw [exec_scanStart, if_neg]
    unfold scanDue
    rcases h with h | h | h <;> simp [h]
  · have hdue : s.scanDue = true := by simp [scanDue, hp, he, hv]
    rw [exec_scanStart, if_pos hdue, beginRoundRobin_of_some (roundRobin_of_start hpt hd hlow)]

end Sys2Proof.Machine
end

section
/-! SUPPORT. The excursion test at a LINE_OUT visit end (R151 to R158). -/

namespace Sys2Proof.Machine

/-! ## The test (R153) -/

/-- R153: the difference that the test takes. -/
def excursionDelta (total prior : Nat) (expected : Int) : Int :=
  (min total 316227 : Nat) - (prior : Int) - expected

/-- R153: the outcome of the test. -/
def excursionOutcome (total prior floor level : Nat) (expected : Int) : LastTest :=
  if 316227 ≤ total then .saturated
  else if prior < floor then .skipped
  else if min (excursionDelta total prior expected).natAbs 316227 * 1024 > prior * excursionFactor level then
    .excursion
  else .clean

theorem excursionTest_eq (total : Nat) (prior : Option Reading) (floor level : Nat) (expected : Int) :
    let outcome := excursionOutcome total (readPower prior) floor level expected
    excursionTest (some (readingOf total)) prior floor level expected =
      (outcome, if outcome = .excursion ∨ outcome = .clean then
        some (excursionDelta total (readPower prior) expected) else none) := by
  have hsat : (some (readingOf total)).any (·.saturated) = decide (316227 ≤ total) := rfl
  have hpow : readPower (some (readingOf total)) = min total 316227 := rfl
  unfold excursionTest excursionOutcome
  rw [hsat, hpow]
  by_cases h1 : 316227 ≤ total
  · simp [h1]
  · by_cases h2 : readPower prior < floor
    · simp [h1, h2]
    · by_cases h3 : readPower prior * excursionFactor level <
          min (excursionDelta total (readPower prior) expected).natAbs 316227 * 1024
      · have h3' := h3
        unfold excursionDelta at h3'
        simp only [h1, h2, h3, decide_false, Bool.false_eq_true, if_false, if_true, reduceCtorEq, or_false]
        exact if_pos h3'
      · have h3' := h3
        unfold excursionDelta at h3'
        simp only [h1, h2, h3, decide_false, Bool.false_eq_true, if_false, if_true, reduceCtorEq, false_or]
        exact if_neg h3'

/-! ## AUTO and the clean count (R154) -/

namespace Guard

variable (g : Guard) (o : LastTest × Option Int) (n : Nat)

theorem judge_fields : (g.judge o n).expected = 0 ∧ (g.judge o n).lastTest = o.1 ∧
    (g.judge o n).forced = g.forced ∧ (g.judge o n).lastD = if o.2.isSome then o.2 else g.lastD := by
  unfold judge
  dsimp only
  split
  · exact ⟨rfl, rfl, rfl, rfl⟩
  · exact ⟨rfl, rfl, rfl, rfl⟩
  · split
    · split <;> exact ⟨rfl, rfl, rfl, rfl⟩
    · exact ⟨rfl, rfl, rfl, rfl⟩
  · split
    · split <;> exact ⟨rfl, rfl, rfl, rfl⟩
    · exact ⟨rfl, rfl, rfl, rfl⟩
  · exact ⟨rfl, rfl, rfl, rfl⟩

variable {g o n}

theorem judge_of_excursion (h : o.1 = .excursion ∨ o.1 = .saturated) :
    (g.judge o n).auto = true ∧ (g.judge o n).clean = 0 := by
  unfold judge
  rcases h with h | h <;> rw [h] <;> exact ⟨rfl, rfl⟩

theorem judge_of_clean (h : o.1 = .clean ∨ o.1 = .skipped) :
    (g.auto = true →
      (g.clean + 1 < n → (g.judge o n).auto = true ∧ (g.judge o n).clean = g.clean + 1) ∧
      (n ≤ g.clean + 1 → (g.judge o n).auto = false ∧ (g.judge o n).clean = 0)) ∧
    (g.auto = false → (g.judge o n).auto = false ∧ (g.judge o n).clean = g.clean) := by
  have key : g.judge o n =
      if g.auto then
        if n ≤ g.clean + 1 then
          { g with expected := 0, lastTest := o.1, lastD := if o.2.isSome then o.2 else g.lastD
                   auto := false, clean := 0 }
        else { g with expected := 0, lastTest := o.1, lastD := if o.2.isSome then o.2 else g.lastD
                      clean := g.clean + 1 }
      else { g with expected := 0, lastTest := o.1, lastD := if o.2.isSome then o.2 else g.lastD } := by
    unfold judge
    rcases h with h | h <;> rw [h]
  rw [key]
  refine ⟨fun ha => ⟨fun hlt => ?_, fun hle => ?_⟩, fun ha => ?_⟩
  · rw [if_pos ha, if_neg (Nat.not_le.mpr hlt)]
    exact ⟨ha, rfl⟩
  · rw [if_pos ha, if_pos hle]
    exact ⟨rfl, rfl⟩
  · rw [if_neg (Bool.not_eq_true _ ▸ ha)]
    exact ⟨ha, rfl⟩

end Guard

namespace State

variable {s t u a : State} {d : Degree} {v : Tap}

theorem tapKind_lineOut (d : Degree) : tapKind (lineOut d) = 1 ∧ tapDegree (lineOut d) = d := by
  refine ⟨Fin.ext ?_, Fin.ext ?_⟩
  · show (4 * d.val + 1) % 4 = 1
    omega
  · show (4 * d.val + 1) / 4 = d.val
    omega

theorem eq_lineOut_of_tapKind (h : tapKind v = 1) : v = lineOut (tapDegree v) := by
  have h' : v.val % 4 = 1 := congrArg Fin.val h
  refine Fin.ext ?_
  show v.val = 4 * (v.val / 4) + 1
  omega

/-- R153: the monitor as a visit of the degree's LINE_OUT tap leaves it. -/
def testedGuard (s : State) (d : Degree) : Guard :=
  (s.guard d).judge
    (excursionTest (s.tap (lineOut d)).latest (s.tap (lineOut d)).prior (s.degreeCfg d).floor
      (s.degreeCfg d).excursionLevel (s.guard d).expected)
    s.cfg.guardExit

theorem testExcursion_lineOut (s : State) (d : Degree) :
    s.testExcursion (lineOut d) = s.putGuard d (s.testedGuard d) := by
  unfold testExcursion
  obtain ⟨hkind, hdeg⟩ := tapKind_lineOut d
  rw [if_pos hkind, hdeg]
  rfl

theorem guard_testExcursion_of_ne (h : v ≠ lineOut d) : (s.testExcursion v).guard d = s.guard d := by
  unfold testExcursion
  split
  · rename_i hk
    have hne : tapDegree v ≠ d := fun e => h (e ▸ eq_lineOut_of_tapKind hk)
    rw [guard_of_guards (watches_putGuard s _ _).1, guard_setGuard, if_neg hne]
  · rfl

theorem guard_putGuard (s : State) (d : Degree) (g : Guard) : (s.putGuard d g).guard d = g := by
  rw [guard_of_guards (watches_putGuard s d g).1, guard_setGuard_self]

theorem windowAt_setGuard (s : State) (d e : Degree) (g : Guard) (cause : StartCause) :
    (s.setGuard d g).windowAt e cause = s.windowAt e cause := rfl

/-- R156: entry to GUARDED, with its flag. -/
theorem putGuard_entered (hp : s.part ≠ .restarting) {g : Guard} (h : s.guarded d = false)
    (hg : (g.auto || g.forced) = true) : (s.putGuard d g).events.degree[d].guardEntered = true := by
  rw [putGuard_of_entered h hg]
  exact guardEntered_enterGuard (s := s.setGuard d g) hp d

/-- R158: entry to OPEN, with its flag and its window. -/
theorem putGuard_left (hp : s.part ≠ .restarting) {g : Guard} (h : s.guarded d = true)
    (hg : (g.auto || g.forced) = false) : (s.putGuard d g).events.degree[d].guardLeft = true ∧
      ∀ e, (s.putGuard d g).budget e =
        if d = e then { s.budget d with window := some (s.windowAt d .guardExit) } else s.budget e := by
  rw [putGuard_of_left h hg]
  refine ⟨guardLeft_leaveGuard (s := s.setGuard d g) hp d, fun e => ?_⟩
  rw [budget_leaveGuard, windowAt_setGuard]
  rfl

/-- R131, R135: a budget that was spent starts the same window. -/
theorem window_of_spends {b b' : Budget} (h : b.Spends b') (w : Option Window) :
    ({ b' with window := w } : Budget) = { b with window := w } := by
  cases h <;> rfl

end State

open State

/-- Settles O43: the monitor is judged by the visit's powers, and the guard state follows it. -/
theorem visitEndTestsForAnExcursion : Obligations.VisitEndTestsForAnExcursion := by
  intro s reading moment v hp he hv
  refine ⟨_, exec_visitEnd_of_some (endedVisit_eq_some hp he hv), ?_⟩
  obtain ⟨a, h1, h2⟩ := useReport_split (s.reported v reading) v moment
  have hguards : (s.endVisit v reading moment).guards = (a.testExcursion v).guards := by
    rw [(endVisit_spec s v reading moment).1]
    exact h2.guards
  have hguard0 : a.guards = s.guards := h1.guards.trans (by rw [reported_eq]; rfl)
  refine ⟨fun d hd => ?_, fun d hd => ?_⟩
  · rw [guard_of_guards hguards, guard_testExcursion_of_ne hd, guard_of_guards hguard0]
  intro prior D limit outcome
  have hevents : (s.endVisit v reading moment).events = (s.judged v reading moment).events := by
    rw [(endVisit_spec s v reading moment).1]
  have hbudgets : (s.endVisit v reading moment).budgets = (s.judged v reading moment).budgets := by
    rw [(endVisit_spec s v reading moment).1]
  have hapart : s.Apart a := (apart_reported s v reading).trans h1.apart
  have hpart : a.part ≠ .restarting := by rw [hapart.part, hp]; nofun
  have htap : a.tap (lineOut d) = { latest := some (readingOf reading.total), prior := (s.tap v).latest
                                    census := s.censusAfter v reading } := by
    have h : (s.reported v reading).tap (lineOut d) = _ := (taps_reported s v reading (lineOut d)).trans (if_pos hd)
    rw [← h]
    simp only [tap, h1.tae]
  have hg : (s.endVisit v reading moment).guard d = (s.guard d).judge
      (outcome, if outcome = .excursion ∨ outcome = .clean then some D else none) s.cfg.guardExit := by
    rw [guard_of_guards hguards, hd, testExcursion_lineOut, guard_putGuard, testedGuard, htap,
      guard_of_guards hguard0, degreeCfg_of_config hapart.config, cfg_of_config hapart.config,
      excursionTest_eq]
    rfl
  obtain ⟨hexp, hlast, hforced, hlastD⟩ := Guard.judge_fields (s.guard d)
    (outcome, if outcome = .excursion ∨ outcome = .clean then some D else none) s.cfg.guardExit
  have hguarded (x : Bool) (h : (s.endVisit v reading moment).guarded d = x) :
      ((a.testedGuard d).auto || (a.testedGuard d).forced) = x := by
    rw [← h, guarded_of_guards hguards, hd, testExcursion_lineOut]
    unfold guarded
    rw [guard_putGuard]
  rw [hg]
  refine ⟨hexp, hlast, hforced, ?_, fun h => Guard.judge_of_excursion h, fun h => (Guard.judge_of_clean h).1,
    fun h => (Guard.judge_of_clean h).2, fun h0 h3 => ?_, fun h0 h3 => ?_⟩
  · rw [hlastD]
    dsimp only
    split <;> rfl
  · rw [hevents]
    refine (h2.apart.rises d).guardEntered ?_
    rw [hd, testExcursion_lineOut]
    exact putGuard_entered hpart (by rw [guarded_of_guards hguard0, h0]) (hguarded true h3)
  · have hleft := putGuard_left hpart (g := a.testedGuard d) (by rw [guarded_of_guards hguard0, h0])
      (hguarded false h3)
    refine ⟨?_, ?_⟩
    · rw [hevents]
      refine (h2.apart.rises d).guardLeft ?_
      rw [hd, testExcursion_lineOut]
      exact hleft.1
    · have hspends := h2.budgets d
      have hbudget := (hleft.2 d).trans (if_pos rfl)
      rw [← testExcursion_lineOut, ← hd] at hbudget
      rw [budget_of_budgets hbudgets]
      rw [hbudget] at hspends
      have hstart : Budget.Spends (s.budget d) (a.budget d) := by
        have hbudget0 : (s.reported v reading).budget d = s.budget d := by
          rw [reported_eq]
          rfl
        exact hbudget0 ▸ h1.budgets d
      have hwindow : a.windowAt d .guardExit =
          Window.start s.cfg (s.degreeCfg d) .guardExit (min reading.total 316227) := by
        rw [windowAt, htap, degreeCfg_of_config hapart.config, cfg_of_config hapart.config]
        rfl
      rw [hwindow, window_of_spends hstart] at hspends
      exact hspends

end Sys2Proof.Machine
end

section
/-! SUPPORT. The entries of the census after a visit (R61 to R65). -/

namespace Sys2Proof.Machine

theorem eq_of_ascending {l : List CensusEntry} (h : Ascending l) {x e : CensusEntry} (hx : x ∈ l) (he : e ∈ l)
    (htone : x.tone = e.tone) : x = e := by
  have hnodup : (l.map (·.tone)).Nodup := h.imp fun hlt => ne_of_lt hlt
  exact List.inj_on_of_nodup_map hnodup hx he htone

theorem missed_eq_none {e : CensusEntry} (h : 7 ≤ e.absence) : e.missed = none := if_pos (by omega)

theorem missed_eq_some {e : CensusEntry} (h : e.absence < 7) :
    e.missed = some { e with absence := e.absence + 1, presence := 0, stable := 0 } := if_neg (by omega)

/-- R62: the stability test over the larger and the smaller power. -/
theorem stableTest_iff (level latest prior : Nat) : stableTest level latest prior = true ↔
    (max latest prior - min latest prior) * 1024 ≤ prior * stabilityFactor level := by
  have h : latest - prior + (prior - latest) = max latest prior - min latest prior := by omega
  unfold stableTest
  rw [h, decide_eq_true_iff]

/-! ## The first pass (R61) -/

variable {level : Nat} {report : Tone → Option ToneReport} {l : List CensusEntry} {e x : CensusEntry}

theorem heard_mem_firstPass {r : ToneReport} (he : e ∈ l) (hr : report e.tone = some r) :
    e.heard level r ∈ firstPass level report l :=
  List.mem_filterMap.mpr ⟨e, he, by rw [hr]⟩

theorem missed_mem_firstPass (he : e ∈ l) (hr : report e.tone = none) (h : e.absence < 7) :
    { e with absence := e.absence + 1, presence := 0, stable := 0 } ∈ firstPass level report l :=
  List.mem_filterMap.mpr ⟨e, he, by rw [hr]; exact missed_eq_some h⟩

theorem exists_of_mem_firstPass (hx : x ∈ firstPass level report l) :
    ∃ e ∈ l, e.tone = x.tone ∧ (report e.tone = none → e.absence < 7) := by
  obtain ⟨e, he, hmap⟩ := List.mem_filterMap.mp hx
  refine ⟨e, he, ?_⟩
  split at hmap
  · rename_i r hr
    cases hmap
    exact ⟨rfl, fun h => by rw [hr] at h; cases h⟩
  · by_cases h7 : e.absence < 7
    · rw [missed_eq_some h7] at hmap
      cases hmap
      exact ⟨rfl, fun _ => h7⟩
    · rw [missed_eq_none (by omega)] at hmap
      cases hmap

theorem length_firstPass_le : (firstPass level report l).length ≤ l.length := List.length_filterMap_le _ _

/-! ## The second pass (R64, R65) -/

variable {watched : Tone → Bool} {acc : List CensusEntry × Bool} {tone : Tone}

/-- R65: an entry that is watched keeps its place. -/
theorem mem_admitTone_of_watched (hw : watched x.tone = true) (hx : x ∈ acc.1) (tone : Tone) :
    x ∈ (admitTone watched report acc tone).1 := by
  unfold admitTone
  split
  · exact hx
  · split
    · exact hx
    · split
      · exact mem_insertEntry.mpr (Or.inr hx)
      · split
        · split
          · exact hx
          · rename_i w hweak
            have hne : x.tone ≠ w.tone := fun e => by
              rw [e, (mem_of_weakest hweak).2] at hw
              cases hw
            exact mem_insertEntry.mpr (Or.inr (List.mem_filter.mpr ⟨hx, by simpa using hne⟩))
        · exact hx

/-- R65: with room, every entry keeps its place. -/
theorem mem_admitTone_of_room (hroom : acc.1.length < censusLimit) (hx : x ∈ acc.1) (tone : Tone) :
    x ∈ (admitTone watched report acc tone).1 := by
  unfold admitTone
  split
  · exact hx
  · split
    · exact hx
    · exact mem_insertEntry.mpr (Or.inr hx)

/-- R64: with room, a new tone is entered. -/
theorem arrival_mem_admitTone {r : ToneReport} (hroom : acc.1.length < censusLimit) (hr : report tone = some r)
    (hnew : ∀ x ∈ acc.1, x.tone ≠ tone) : CensusEntry.arrival tone r ∈ (admitTone watched report acc tone).1 := by
  have hnone : censusFind acc.1 tone = none := censusFind_eq_none_iff.mpr hnew
  unfold admitTone
  rw [hr]
  dsimp only
  rw [hnone, if_neg (by nofun), if_pos hroom]
  exact mem_insertEntry.mpr (Or.inl rfl)

/-- R64: what is entered is the tone, which is present. -/
theorem eq_of_mem_admitTone (hx : x ∈ (admitTone watched report acc tone).1) :
    x ∈ acc.1 ∨ x.tone = tone ∧ (report tone).isSome = true := by
  unfold admitTone at hx
  split at hx
  · exact Or.inl hx
  · rename_i r hr
    have hsome : (report tone).isSome = true := by rw [hr]; rfl
    split at hx
    · exact Or.inl hx
    · split at hx
      · rcases mem_insertEntry.mp hx with rfl | hx
        · exact Or.inr ⟨rfl, hsome⟩
        · exact Or.inl hx
      · split at hx
        · split at hx
          · exact Or.inl hx
          · rcases mem_insertEntry.mp hx with rfl | hx
            · exact Or.inr ⟨rfl, hsome⟩
            · exact Or.inl (List.mem_filter.mp hx).1
        · exact Or.inl hx

theorem length_admitTone_le (h : acc.1.length < censusLimit) : (admitTone watched report acc tone).1.length ≤ acc.1.length + 1 := by
  unfold admitTone
  split
  · exact Nat.le_succ _
  · split
    · exact Nat.le_succ _
    · exact Nat.le_of_eq (length_insertEntry _ _)

theorem mem_foldl_admitTone_of_watched (hw : watched x.tone = true) (tones : List Tone)
    (acc : List CensusEntry × Bool) (hx : x ∈ acc.1) : x ∈ (tones.foldl (admitTone watched report) acc).1 := by
  induction tones generalizing acc with
  | nil => exact hx
  | cons a tones ih => exact ih _ (mem_admitTone_of_watched hw hx a)

theorem mem_foldl_admitTone_of_room (tones : List Tone) (acc : List CensusEntry × Bool)
    (hroom : acc.1.length + tones.length ≤ 128) (hx : x ∈ acc.1) :
    x ∈ (tones.foldl (admitTone watched report) acc).1 := by
  induction tones generalizing acc with
  | nil => exact hx
  | cons a tones ih =>
    rw [List.length_cons] at hroom
    have hlt : acc.1.length < censusLimit := Nat.lt_of_lt_of_le (by omega) hroom
    have hlen := length_admitTone_le (watched := watched) (report := report) (tone := a) hlt
    exact ih _ (by omega) (mem_admitTone_of_room hlt hx a)

theorem arrival_mem_foldl_admitTone {r : ToneReport} (hr : report tone = some r) (tones : List Tone)
    (acc : List CensusEntry × Bool) (hroom : acc.1.length + tones.length ≤ 128)
    (hnew : ∀ x ∈ acc.1, x.tone ≠ tone) (hmem : tone ∈ tones) :
    CensusEntry.arrival tone r ∈ (tones.foldl (admitTone watched report) acc).1 := by
  induction tones generalizing acc with
  | nil => cases hmem
  | cons a tones ih =>
    rw [List.length_cons] at hroom
    have hlt : acc.1.length < censusLimit := Nat.lt_of_lt_of_le (by omega) hroom
    have hlen := length_admitTone_le (watched := watched) (report := report) (tone := a) hlt
    rw [List.foldl_cons]
    by_cases ha : a = tone
    · subst ha
      exact mem_foldl_admitTone_of_room _ _ (by omega) (arrival_mem_admitTone hlt hr hnew)
    · refine ih _ (by omega) (fun x hx => ?_) ((List.mem_cons.mp hmem).resolve_left (Ne.symm ha))
      rcases eq_of_mem_admitTone hx with hx | ⟨hx, -⟩
      · exact hnew x hx
      · rw [hx]
        exact ha

theorem mem_foldl_admitTone (tones : List Tone) (acc : List CensusEntry × Bool)
    (hx : x ∈ (tones.foldl (admitTone watched report) acc).1) : x ∈ acc.1 ∨ (report x.tone).isSome = true := by
  induction tones generalizing acc with
  | nil => exact Or.inl hx
  | cons a tones ih =>
    rcases ih _ hx with hx | hx
    · exact (eq_of_mem_admitTone hx).imp_right fun ⟨h1, h2⟩ => h1 ▸ h2
    · exact Or.inr hx

/-- The tones that the second pass enters are among those the visit lists. -/
theorem length_newTones_le (threshold : Nat) (reading : VisitReading) (p : Tone → Bool) :
    (allTones.filter fun t => (toneReport threshold reading t).isSome && p t).length ≤ reading.tones.length := by
  have hnodup : (allTones.filter fun t => (toneReport threshold reading t).isSome && p t).Nodup :=
    (List.nodup_finRange 256).filter _
  have hsub : (allTones.filter fun t => (toneReport threshold reading t).isSome && p t) ⊆
      reading.tones.map (·.tone) := fun t ht => by
    have hsome := (Bool.and_eq_true_iff.mp (List.mem_filter.mp ht).2).1
    unfold toneReport at hsome
    split at hsome
    · cases hsome
    · rename_i x hx
      have he : x.tone = t := by simpa using List.find?_some hx
      exact List.mem_map.mpr ⟨x, List.mem_of_find?_eq_some hx, he⟩
  have hlen := (hnodup.subperm hsub).length_le
  rwa [List.length_map] at hlen

namespace State

variable {s : State} {v : Tap} {reading : VisitReading}

/-- Room in the census of a tap for every tone that the visit lists. -/
def HasRoom (s : State) (v : Tap) (reading : VisitReading) : Prop :=
  (s.tap v).census.length + reading.tones.length ≤ 128

/-- R65: what the first pass leaves stays, when it is watched or the census has room. -/
theorem mem_censusAfter {x : CensusEntry}
    (hx : x ∈ firstPass s.cfg.stabilityLevel (toneReport s.cfg.presence reading) (s.tap v).census)
    (h : s.watched v x.tone = true ∨ s.HasRoom v reading) : x ∈ s.censusAfter v reading := by
  unfold censusAfter secondPass
  rcases h with h | h
  · exact mem_foldl_admitTone_of_watched h _ _ hx
  · refine mem_foldl_admitTone_of_room _ _ ?_ hx
    have h1 := length_firstPass_le (level := s.cfg.stabilityLevel)
      (report := toneReport s.cfg.presence reading) (l := (s.tap v).census)
    have h2 := length_newTones_le s.cfg.presence reading fun t => (censusFind
      (firstPass s.cfg.stabilityLevel (toneReport s.cfg.presence reading) (s.tap v).census) t).isNone
    have h3 : (s.tap v).census.length + reading.tones.length ≤ 128 := h
    dsimp only
    omega

/-- R63: the census lists no tone that was purged. -/
theorem tone_ne_of_purged (hasc : Ascending (s.tap v).census) {e x : CensusEntry} (he : e ∈ (s.tap v).census)
    (hr : toneReport s.cfg.presence reading e.tone = none) (h : 7 ≤ e.absence)
    (hx : x ∈ s.censusAfter v reading) : x.tone ≠ e.tone := fun htone => by
  rcases mem_foldl_admitTone _ _ hx with hx | hx
  · obtain ⟨e', he', ht, habs⟩ := exists_of_mem_firstPass hx
    have heq := eq_of_ascending hasc he' he (ht.trans htone)
    subst heq
    have := habs hr
    omega
  · rw [htone, hr] at hx
    cases hx

/-- R64: with room, a tone that is heard and not listed is entered. -/
theorem arrival_mem_censusAfter {tone : Tone} {r : ToneReport}
    (hr : toneReport s.cfg.presence reading tone = some r) (hnew : ∀ e ∈ (s.tap v).census, e.tone ≠ tone)
    (hroom : s.HasRoom v reading) : CensusEntry.arrival tone r ∈ s.censusAfter v reading := by
  have hfirst : ∀ x ∈ firstPass s.cfg.stabilityLevel (toneReport s.cfg.presence reading) (s.tap v).census,
      x.tone ≠ tone := fun x hx => by
    obtain ⟨e, he, ht, -⟩ := exists_of_mem_firstPass hx
    exact ht ▸ hnew e he
  have h1 := length_firstPass_le (level := s.cfg.stabilityLevel)
    (report := toneReport s.cfg.presence reading) (l := (s.tap v).census)
  have h2 := length_newTones_le s.cfg.presence reading fun t => (censusFind
    (firstPass s.cfg.stabilityLevel (toneReport s.cfg.presence reading) (s.tap v).census) t).isNone
  have h3 : (s.tap v).census.length + reading.tones.length ≤ 128 := hroom
  refine arrival_mem_foldl_admitTone hr _ _ (by dsimp only; omega) hfirst ?_
  have hnone := censusFind_eq_none_iff.mpr hfirst
  simp [allTones, hr, hnone]

end State

open State

/-- R62: what a present report makes of an entry. -/
theorem heard_fields (e : CensusEntry) (level power : Nat) (decoded : Option (Channel × ToneState)) :
    let x := e.heard level ⟨power, decoded⟩
    let stable := (max power e.latest - min power e.latest) * 1024 ≤ e.latest * stabilityFactor level
    x.tone = e.tone ∧ x.latest = power ∧ x.prior = e.latest ∧
      x.presence = min 255 (e.presence + 1) ∧ x.absence = 0 ∧
      (stable → x.stable = min 15 (e.stable + 1)) ∧ (¬ stable → x.stable = 0) ∧
      (∀ w, decoded = some w → x.decoded = some w ∧ x.lastDecoded = true ∧ x.undecoded = 0) ∧
      (decoded = none → x.decoded = e.decoded ∧ x.lastDecoded = false ∧
        x.undecoded = min 15 (e.undecoded + 1)) := by
  refine ⟨rfl, rfl, rfl, rfl, rfl, fun h => if_pos ((stableTest_iff _ _ _).mpr h),
    fun h => if_neg fun k => h ((stableTest_iff _ _ _).mp k), fun w h => ?_, fun h => ?_⟩
  · rw [h]
    exact ⟨rfl, rfl, rfl⟩
  · rw [h]
    exact ⟨rfl, rfl, rfl⟩

/-- Settles O42: each entry by its report, and a tone heard that has none. -/
theorem visitEndUpdatesTheCensus : Obligations.VisitEndUpdatesTheCensus := by
  intro s reading moment v hp he hv hinv room
  have hcensus : ((s.endVisit v reading moment).tap v).census = s.censusAfter v reading := by
    rw [tap_endVisit, taps_reported, if_pos rfl]
  have hasc := (censusInv_iff.mp hinv v).2.1
  refine ⟨_, exec_visitEnd_of_some (endedVisit_eq_some hp he hv), ?_⟩
  rw [hcensus]
  refine ⟨fun e hmem hr => ⟨fun h7 x hx => tone_ne_of_purged hasc hmem hr h7 hx, fun h7 hkeep => ?_⟩,
    fun e hmem power decoded hr hkeep => ?_, fun tone power decoded hr hnew hroom => ?_⟩
  · exact mem_censusAfter (missed_mem_firstPass hmem hr h7) hkeep
  · intro stable
    have hheard := heard_mem_firstPass (level := s.cfg.stabilityLevel) hmem hr
    exact ⟨_, mem_censusAfter hheard hkeep, heard_fields e _ power decoded⟩
  · exact ⟨_, arrival_mem_censusAfter hr hnew hroom, rfl, rfl, rfl, rfl, rfl, rfl, rfl, rfl, rfl⟩

end Sys2Proof.Machine
end

section
/-! SUPPORT. The boundary of a window (R131 to R133, R138). -/

namespace Sys2Proof.Machine

namespace State

variable {s t : State} {d : Degree}

theorem link_modRequests (s : State) (d e : Degree) (f : Request → Request) : (s.modRequests d f).link e =
    if d = e then { s.link d with requests := (s.link d).requests.map f } else s.link e := by
  unfold modRequests
  rw [link_of_links (links_syncLink _ d), setRequests, modLink, link_setLink]

/-- R138: the start of a window lifts every budget hold of the degree's link. -/
theorem link_startWindow (s : State) (d e : Degree) (cause : StartCause) : (s.startWindow d cause).link e =
    if d = e then { s.link d with requests := (s.link d).requests.map fun r => { r with budgetHold := false } }
    else s.link e := by
  rw [startWindow_eq, link_modRequests]
  rfl

/-- R131: what the start of a window leaves. -/
theorem startWindow_spec (s : State) (d : Degree) (cause : StartCause) :
    (s.startWindow d cause).still = s.still ∧ (∀ e, (s.startWindow d cause).wire e = s.wire e) ∧
      ∀ i, sameSlot Context.Calmly (s.ctx i) ((s.startWindow d cause).ctx i) := by
  have h := calm_modRequests (s.setBudget d { s.budget d with window := some (s.windowAt d cause) }) d
    fun r => { r with budgetHold := false }
  rw [startWindow_eq]
  exact ⟨h.still, h.wire, h.records⟩

theorem decisionDue_of_link (h : t.link d = s.link d) : t.decisionDue d = s.decisionDue d := by
  simp only [decisionDue, h]

theorem decisionDue_of_not_idle (h : (s.link d).state ≠ .idle) : s.decisionDue d = false := by
  unfold decisionDue
  rw [beq_false_of_ne h, Bool.false_and]

/-- The state at a boundary, before the decision that follows. -/
def bounded (s : State) (d : Degree) : State :=
  (s.setBudget d { s.budget d with boundaryDue := false }).startWindow d .boundary

theorem crossBoundary_eq (s : State) (d : Degree) : s.crossBoundary d = (s.bounded d).arbitrate := rfl

theorem budget_bounded (s : State) (d e : Degree) : (s.bounded d).budget e =
    if d = e then { boundaryDue := false, window := some (s.windowAt d .boundary) } else s.budget e := by
  have hwindow : (s.setBudget d { s.budget d with boundaryDue := false }).windowAt d .boundary =
      s.windowAt d .boundary := rfl
  unfold bounded
  rw [budget_startWindow, hwindow, budget_setBudget_self, budget_setBudget]
  by_cases h : d = e
  · rw [if_pos h, if_pos h]
  · rw [if_neg h, if_neg h, if_neg h]

theorem link_bounded (s : State) (d e : Degree) : (s.bounded d).link e =
    if d = e then { s.link d with requests := (s.link d).requests.map fun r => { r with budgetHold := false } }
    else s.link e := by
  unfold bounded
  rw [link_startWindow]
  rfl

theorem bounded_spec (s : State) (d : Degree) : (s.bounded d).still = s.still ∧
    (∀ e, (s.bounded d).wire e = s.wire e) ∧ ∀ i, sameSlot Context.Calmly (s.ctx i) ((s.bounded d).ctx i) :=
  startWindow_spec (s.setBudget d { s.budget d with boundaryDue := false }) d .boundary

/-- R165: on a link that is not IDLE the lifted holds bring no decision. -/
theorem decided_bounded (h : s.Decided) (hd : (s.link d).state ≠ .idle) : (s.bounded d).Decided := fun e => by
  by_cases hde : d = e
  · subst hde
    refine decisionDue_of_not_idle ?_
    rw [link_bounded, if_pos rfl]
    exact hd
  · rw [decisionDue_of_link ((link_bounded s d e).trans (if_neg hde))]
    exact h e

end State

open State

theorem exec_windowBoundary (d : Degree) (s : State) :
    exec (.windowBoundary d) s = .next (if s.boundaryMet d then s.crossBoundary d else s) := rfl

/-- Settles O40: the window starts, and what follows is a decision. -/
theorem windowBoundaryStartsAWindow : Obligations.WindowBoundaryStartsAWindow := by
  intro s d
  rw [exec_windowBoundary]
  refine ⟨fun h => ?_, fun hp hdue => ?_⟩
  · rw [if_neg]
    unfold boundaryMet
    rcases h with h | h
    · simp [h]
    · simp [h]
  · intro power size fresh
    have hmet : s.boundaryMet d = true := by simp [boundaryMet, hp, hdue]
    obtain ⟨hstill, hwire, hrecords⟩ := bounded_spec s d
    have hfresh : (s.bounded d).budget d = fresh := (budget_bounded s d d).trans (if_pos rfl)
    have hdec := decides_arbitrate (s.bounded d)
    have hbudget (e : Degree) (he : e ≠ d) : (s.bounded d).budget e = s.budget e :=
      (budget_bounded s d e).trans (if_neg (Ne.symm he))
    have hlast : s.Decided → (s.link d).state ≠ .idle → (s.bounded d).arbitrate.budget d = fresh ∧
        ((s.bounded d).arbitrate.link d).requests =
          (s.link d).requests.map fun r => { r with budgetHold := false } := fun hdecided hlink => by
      rw [arbitrate_of_not_due _ (decided_bounded hdecided hlink)]
      exact ⟨hfresh, by rw [link_bounded, if_pos rfl]⟩
    rw [if_pos hmet, crossBoundary_eq]
    generalize s.bounded d = u at *
    refine ⟨_, rfl, hdec.still.trans hstill, hfresh ▸ hdec.budgets d, fun e he => ?_, fun e => ?_, fun i => ?_,
      hlast⟩
    · exact hbudget e he ▸ hdec.budgets e
    · exact hwire e ▸ hdec.wire e
    · exact sameSlot_trans Context.Turns.trans (sameSlot_mono Context.Calmly.turns (hrecords i)) (hdec.records i)

end Sys2Proof.Machine
end

section
/-! SUPPORT. FORCE_GUARD (R155 to R158). -/

namespace Sys2Proof.Machine

namespace State

variable {s t : State} {d : Degree} {g : Guard}

theorem decided_of_link (h : ∀ d, t.link d = s.link d) (hs : s.Decided) : t.Decided := fun d => by
  rw [decisionDue_of_link (h d)]
  exact hs d

/-- R156, R157: entry to GUARDED holds every span-charged request of the degree's link. -/
theorem link_enterGuard (s : State) (d e : Degree) : (s.enterGuard d).link e =
    if d = e then { s.link d with requests := (s.link d).requests.map fun r =>
      { r with guardHold := r.guardHold || r.spanCharged } }
    else s.link e := by
  have hmark (e : Degree) : (s.markDegree d fun f => { f with guardEntered := true }).link e = s.link e := by
    rw [markDegree_still_but_flags]
    rfl
  unfold enterGuard
  rw [link_modRequests, hmark, hmark]

/-- R165: more requests held bring no decision. -/
theorem decided_enterGuard (h : s.Decided) (d : Degree) : (s.enterGuard d).Decided := fun e => by
  by_cases hde : d = e
  · subst hde
    have hs := h d
    unfold decisionDue at hs ⊢
    rw [link_enterGuard, if_pos rfl]
    rw [Bool.and_eq_false_iff] at hs ⊢
    refine hs.imp_right fun hany => ?_
    rw [List.any_eq_false] at hany ⊢
    intro r hr
    obtain ⟨q, hq, rfl⟩ := List.mem_map.mp hr
    have hheld : q.held = true := by simpa using hany q hq
    unfold Request.held at hheld ⊢
    rcases Bool.or_eq_true_iff.mp hheld with hb | hb <;> simp [hb]
  · rw [decisionDue_of_link ((link_enterGuard s d e).trans (if_neg hde))]
    exact h e

theorem enterGuard_spec (s : State) (d : Degree) : (s.enterGuard d).budgets = s.budgets ∧
    ∀ e, (s.enterGuard d).wire e = s.wire e := by
  refine ⟨?_, fun e => ?_⟩
  · unfold enterGuard
    exact (calm_modRequests _ d _).budgets.trans (budgets_markDegree s d _)
  · unfold wire
    rw [link_enterGuard]
    split
    · rename_i h
      rw [h]
    · rfl

/-- The state that FORCE_GUARD leaves. -/
def guardPut (s : State) (d : Degree) (g : Guard) : State := (s.putGuard d g).arbitrate

theorem guard_guardPut (s : State) (d e : Degree) (g : Guard) :
    (s.guardPut d g).guard e = if d = e then g else s.guard e := by
  have h := guards_of_still (decides_arbitrate (s.putGuard d g)).still
  unfold guardPut
  rw [guard_of_guards (h.trans (watches_putGuard s d g).1), guard_setGuard]

/-- The guard state stays: the monitor alone is written. -/
theorem guardPut_of_same (hdec : s.Decided) (h : s.guarded d = (g.auto || g.forced)) :
    s.guardPut d g = s.setGuard d g := by
  unfold guardPut
  rw [putGuard_of_same h]
  exact arbitrate_of_not_due _ (decided_of_link (s := s) (t := s.setGuard d g) (fun _ => rfl) hdec)

/-- R156, R157: the degree enters GUARDED. -/
theorem guardPut_of_entered (hp : s.part ≠ .restarting) (hdec : s.Decided) (h : s.guarded d = false)
    (hg : (g.auto || g.forced) = true) :
    (s.guardPut d g).events.degree[d].guardEntered = true ∧ (s.guardPut d g).budgets = s.budgets ∧
      (∀ e, (s.guardPut d g).wire e = s.wire e) ∧
      ∀ r ∈ ((s.guardPut d g).link d).requests, r.spanCharged = true → r.guardHold = true := by
  have hput : s.guardPut d g = (s.setGuard d g).enterGuard d := by
    unfold guardPut
    rw [putGuard_of_entered h hg]
    exact arbitrate_of_not_due _
      (decided_enterGuard (decided_of_link (s := s) (t := s.setGuard d g) (fun _ => rfl) hdec) d)
  obtain ⟨hbudgets, hwire⟩ := enterGuard_spec (s.setGuard d g) d
  rw [hput]
  refine ⟨guardEntered_enterGuard (s := s.setGuard d g) hp d, hbudgets, hwire, fun r hr hspan => ?_⟩
  rw [link_enterGuard, if_pos rfl] at hr
  obtain ⟨q, -, rfl⟩ := List.mem_map.mp hr
  have hq : q.spanCharged = true := hspan
  simp [hq]

/-- R158: the degree enters OPEN. -/
theorem guardPut_of_left (hp : s.part ≠ .restarting) (h : s.guarded d = true) (hg : (g.auto || g.forced) = false) :
    (s.guardPut d g).events.degree[d].guardLeft = true ∧
      Budget.Spends { s.budget d with window := some (s.windowAt d .guardExit) } ((s.guardPut d g).budget d) ∧
      ∀ e, e ≠ d → Budget.Spends (s.budget e) ((s.guardPut d g).budget e) := by
  obtain ⟨hflag, hbudget⟩ := putGuard_left hp h hg
  have hdec := decides_arbitrate (s.putGuard d g)
  have hself := hbudget d
  rw [if_pos rfl] at hself
  have hother (e : Degree) (he : e ≠ d) := (hbudget e).trans (if_neg (Ne.symm he))
  have hput : s.guardPut d g = (s.putGuard d g).arbitrate := rfl
  rw [← hput] at hdec
  refine ⟨((apart_of_still hdec.still).rises d).guardLeft hflag, hself ▸ hdec.budgets d, fun e he => ?_⟩
  exact hother e he ▸ hdec.budgets e

end State

open State

theorem causes_eq (g : Guard) :
    g.causes = payload16 [(g.auto || g.forced).toNat, g.auto.toNat, g.forced.toNat, g.clean] := by
  simp only [Guard.causes, flag16_eq, payload16_cons, payload16_nil, List.append_assoc, List.append_nil]

theorem exec_forceGuard (p : List Byte) (s : State) :
    exec (.forceGuard p) s = .next (s.answer .running 4 p (forceGuardBody p)) := rfl

theorem forceGuardBody_of_action {p : List Byte} {s : State} {d : Degree} {forced : Bool}
    (hd : s.namedDegree p = some d) (h : fieldAt p 1 = if forced then 1 else 2) :
    forceGuardBody p s =
      .ok (({ s.guard d with forced := forced } : Guard).causes, s.guardPut d { s.guard d with forced := forced }) := by
  have hact : fieldAt p 1 = 1 ∨ fieldAt p 1 = 2 := by
    rw [h]
    cases forced
    · exact Or.inr rfl
    · exact Or.inl rfl
  have hforced : (fieldAt p 1 == 1) = forced := by
    rw [h]
    cases forced <;> rfl
  unfold forceGuardBody
  rw [hd]
  dsimp only
  rw [if_pos hact, hforced]
  rfl

/-- Settles O28: the guard state stays, is entered or is left. -/
theorem forceGuardSetsOrClearsForced : Obligations.ForceGuardSetsOrClearsForced := by
  intro p s hrun hlen
  have hadm := running_refusal_of_run hrun
  rw [exec_forceGuard]
  refine ⟨fun h => ?_, fun d forced hd hpres hact hdec => ?_⟩
  · rw [answer_of_body_error hadm hlen]
    rcases h with h | h
    · have hnone : s.taken.namedDegree p = none := namedDegree_eq_none (s := s.taken) h
      simp only [forceGuardBody, hnone]
    · unfold forceGuardBody
      split
      · rfl
      · rw [if_neg h]
  · intro auto
    have hpart : s.taken.part ≠ .restarting := by
      show s.part ≠ _
      rw [hrun]
      nofun
    have hdec' : s.taken.Decided := decided_of_link (s := s) (t := s.taken) (fun _ => rfl) hdec
    have hbody := forceGuardBody_of_action (s := s.taken) (usedDegree_eq_some_iff.mpr ⟨hd, hpres⟩) hact
    obtain ⟨g, hg⟩ : ∃ g : Guard, g = { s.taken.guard d with forced := forced } := ⟨_, rfl⟩
    have hcauses : (g.auto || g.forced) = (auto || forced) := by rw [hg]; rfl
    have hpayload : g.causes = payload16
        [(auto || forced).toNat, auto.toNat, forced.toNat, (s.guard d).clean] := by
      rw [causes_eq, hg]
      rfl
    have hguard := guard_guardPut s.taken d
    have hsame := guardPut_of_same (g := g) (d := d) hdec'
    have henter := guardPut_of_entered (g := g) (d := d) hpart hdec'
    have hleave := guardPut_of_left (g := g) (d := d) hpart
    rw [← hg] at hbody
    rw [hcauses] at hsame henter hleave
    have hself : (s.taken.guardPut d g).guard d = { s.guard d with forced := forced } :=
      ((hguard d g).trans (if_pos rfl)).trans hg
    have hother (e : Degree) (he : e ≠ d) : (s.taken.guardPut d g).guard e = s.guard e :=
      (hguard e g).trans (if_neg (Ne.symm he))
    rw [answer_of_body_ok hadm hlen hbody, hpayload]
    obtain ⟨u, hu⟩ : ∃ u, u = s.taken.guardPut d g := ⟨_, rfl⟩
    rw [← hu] at hsame henter hleave hself hother ⊢
    refine ⟨_, rfl, rfl, hself, hother, fun h => ?_, fun h hf => henter h ?_, fun h hc => hleave h hc⟩
    · rw [hsame h]
      rfl
    · rw [hf, Bool.or_true]

end Sys2Proof.Machine
end

section
/-! SUPPORT. The READ that ADOPT posts, and the decision that follows (R21, R163 to R167). -/

namespace Sys2Proof.Machine

namespace State

variable {s t : State} {d : Degree} {i : Slot} {c : Context}

/-! ## A decision that grants one request (R166) -/

theorem reach_of_held {r : Request} (h : r.held = true) (d : Degree) : s.reach d r = s := by
  unfold reach
  rw [if_pos h]

/-- R166: every request but one is passed over, and the grant of that one ends the decision. -/
theorem decision_grants {r : Request} (hidle : (s.link d).state = .idle) (hreach : s.reach d r = t)
    (ht : (t.link d).state ≠ .idle) (hby : (s.link d).requestBy (.single i) = some r) (keys : List ReqKey)
    (hkeys : ∀ k ∈ keys, ∃ q, (s.link d).requestBy k = some q ∧ (q = r ∨ q.held = true))
    (hmem : .single i ∈ keys) : s.decision d keys = t := by
  induction keys with
  | nil => cases hmem
  | cons k ks ih =>
    obtain ⟨q, hq, hqr⟩ := hkeys k List.mem_cons_self
    rw [decision, hidle]
    dsimp only
    rw [hq]
    dsimp only
    rcases hqr with rfl | hheld
    · rw [hreach]
      exact decision_of_not_idle ht ks
    · rw [reach_of_held hheld]
      by_cases hk : k = .single i
      · subst hk
        rw [hby] at hq
        cases hq
        rw [← hreach, reach_of_held hheld] at ht
        exact absurd hidle ht
      · exact ih (fun k hk => hkeys k (List.mem_cons_of_mem _ hk))
          ((List.mem_cons.mp hmem).resolve_left (Ne.symm hk))

theorem decisions_of_not_due (h : s.decisionDue d = false) (n : Nat) : s.decisions d n = s := by
  cases n with
  | zero => rfl
  | succ n =>
    unfold decisions
    rw [if_neg (by rw [h]; nofun)]

/-- R165: the decision of one link is due, and it leaves none due. -/
theorem arbitrate_of_one_due (hrun : s.part = .run) (hwaits : s.arbiterWaits = false)
    (hother : ∀ e, e ≠ d → s.decisionDue e = false) (hone : s.decisions d 66 = t) (ht : t.Decided) :
    s.arbitrate = t := by
  have hstays (l : List Degree) : l.foldl (fun s d => s.decisions d 66) t = t := by
    induction l with
    | nil => rfl
    | cons e l ih => rw [List.foldl_cons, decisions_of_not_due (ht e), ih]
  have key (l : List Degree) : d ∈ l → l.foldl (fun s d => s.decisions d 66) s = t := by
    induction l with
    | nil => nofun
    | cons e l ih =>
      intro hmem
      rw [List.foldl_cons]
      by_cases he : e = d
      · subst he
        rw [hone]
        exact hstays l
      · rw [decisions_of_not_due (hother e he)]
        exact ih ((List.mem_cons.mp hmem).resolve_left (Ne.symm he))
  unfold arbitrate
  rw [if_pos ⟨hrun, by rw [hwaits]; rfl⟩]
  exact key allDegrees (mem_allDegrees d)

/-! ## The READ of an ADOPT (R21) -/

/-- The READ that an ADOPT posts. -/
def readRequest (c : Context) (i : Slot) : Request :=
  Request.mk (.single .read i none none 0) .high c.side false false false

theorem filter_eq_of_no_holder {l : List Request} (h : ∀ r ∈ l, i ∉ r.holders) :
    l.filter (fun r => r.key != .single i) = l := by
  refine List.filter_eq_self.mpr fun r hr => ?_
  by_contra hk
  have hkey : (r.key == .single i) = true := by simpa using hk
  exact h r hr (holder_of_key_single hkey)

theorem requestOf_eq_none {l : Link} (h : ∀ r ∈ l.requests, i ∉ r.holders) : l.requestOf i = none := by
  unfold Link.requestOf
  rw [List.find?_eq_none]
  intro r hr
  simpa using h r hr

/-- The link after a READ is posted. -/
def withRead (l : Link) (c : Context) (i : Slot) : Link := { l with requests := l.requests ++ [readRequest c i] }

theorem requestOf_withRead {l : Link} (h : ∀ r ∈ l.requests, i ∉ r.holders) :
    (withRead l c i).requestOf i = some (readRequest c i) := by
  have hnone : l.requests.find? (fun r => r.holders.contains i) = none := requestOf_eq_none h
  unfold Link.requestOf withRead
  rw [List.find?_append, hnone]
  simp [readRequest, Request.holders]

section Posted

variable (hc : s.ctx i = some c) (hfree : ∀ r ∈ (s.link c.link).requests, i ∉ r.holders)
include hc hfree

theorem postRead_eq : s.postRead i =
    (s.setRequests c.link ((s.link c.link).requests ++ [readRequest c i])).syncHolds i := by
  have hnone : s.requestOf c i = none := requestOf_eq_none hfree
  have hreq : c.request s .read i .high none none 0 = readRequest c i := rfl
  unfold postRead
  rw [hc]
  dsimp only
  rw [hreq]
  unfold postRequest
  rw [hc]
  dsimp only
  rw [hnone, filter_eq_of_no_holder hfree]
  rfl

theorem link_postRead (e : Degree) : (s.postRead i).link e =
    if c.link = e then withRead (s.link c.link) c i else s.link e := by
  rw [postRead_eq hc hfree, link_of_links (links_syncHolds _ i), setRequests, modLink, link_setLink]
  rfl

theorem ctx_postRead_self : (s.postRead i).ctx i = some (c.synced (withRead (s.link c.link) c i) i) := by
  have hc' : (s.setRequests c.link ((s.link c.link).requests ++ [readRequest c i])).ctx i = some c := hc
  have hl : (s.setRequests c.link ((s.link c.link).requests ++ [readRequest c i])).link c.link =
      withRead (s.link c.link) c i := link_setLink_self s c.link _
  rw [postRead_eq hc hfree, syncHolds_eq, ctx_modCtx_self _ hc', hl]

theorem ctx_postRead_of_ne {j : Slot} (hj : j ≠ i) : (s.postRead i).ctx j = s.ctx j := by
  rw [postRead_eq hc hfree, syncHolds_eq, ctx_modCtx_of_ne _ hj]
  rfl

/-- R165: on a link that is not IDLE a posted READ brings no decision. -/
theorem decided_postRead (hdec : s.Decided) (hidle : (s.link c.link).state ≠ .idle) : (s.postRead i).Decided :=
    fun e => by
  by_cases he : c.link = e
  · subst he
    refine decisionDue_of_not_idle ?_
    rw [link_postRead hc hfree, if_pos rfl]
    exact hidle
  · rw [decisionDue_of_link ((link_postRead hc hfree e).trans (if_neg he))]
    exact hdec e

end Posted

/-- R7: a new record with its READ on the list. -/
theorem synced_withRead (hflags : c.flags = CondFlags.clear) (hstep : c.step = none) {l : Link}
    (h : ∀ r ∈ l.requests, i ∉ r.holders) : c.synced (withRead l c i) i =
      { c with flags := { c.flags with linkHold := decide (l.state = .faulted) } } := by
  unfold Context.synced
  rw [requestOf_withRead h, hflags, hstep]
  simp [withRead, readRequest, CondFlags.clear, beq_eq_decide]

/-- R21, R167: the step in flight of a READ. -/
def readStep : StepInFlight := StepInFlight.mk .read none none none 0

theorem kind_readStep : readStep.kind ≠ .openPort := nofun

theorem ctx_grantSingle_self (hc : s.ctx i = some c) {step : StepInFlight} (hcharge : step.charge = 0)
    (hkind : step.kind ≠ .openPort) : (s.grantSingle d i step).ctx i =
      some (Context.synced { c with step := some step } ((s.grantSingle d i step).link c.link) i) := by
  obtain ⟨u, hu⟩ : ∃ u, u = ((s.takeRequest d (.single i)).modCtx i fun c => { c with step := some step }).send d
      { kind := step.kind.command, side := c.side, entries := [.carrying i c step] } := ⟨_, rfl⟩
  have hctx : u.ctx i = some { c with step := some step } := by
    rw [hu]
    exact ctx_modCtx_self (s.takeRequest d (.single i)) (c := c) hc _
  have hlink : (u.syncHolds i).link c.link = u.link c.link := link_of_links (links_syncHolds u i) _
  rw [grantSingle_eq hc hcharge hkind, ← hu, hlink, syncHolds_eq, ctx_modCtx_self u hctx]
  rfl

/-- R167: such a grant writes no other record and no keyer. -/
theorem others_grantSingle (hc : s.ctx i = some c) {step : StepInFlight} (hcharge : step.charge = 0)
    (hkind : step.kind ≠ .openPort) : (∀ j, j ≠ i → (s.grantSingle d i step).ctx j = s.ctx j) ∧
      (s.grantSingle d i step).keyers = s.keyers := by
  obtain ⟨u, hu⟩ : ∃ u, u = ((s.takeRequest d (.single i)).modCtx i fun c => { c with step := some step }).send d
      { kind := step.kind.command, side := c.side, entries := [.carrying i c step] } := ⟨_, rfl⟩
  rw [grantSingle_eq hc hcharge hkind, ← hu]
  refine ⟨fun j hj => ?_, ?_⟩
  · rw [syncHolds_eq, ctx_modCtx_of_ne u hj, hu]
    exact ctx_modCtx_of_ne (s.takeRequest d (.single i)) hj _
  · rw [(calm_syncHolds u i).keyers, hu]
    exact keyers_modCtx (s.takeRequest d (.single i)) i _

/-- Every request of a decided IDLE link is held (R165). -/
theorem held_of_decided (hdec : s.decisionDue d = false) (hidle : (s.link d).state = .idle) {r : Request}
    (hr : r ∈ (s.link d).requests) : r.held = true := by
  unfold decisionDue at hdec
  rw [hidle] at hdec
  have hany : ((s.link d).requests.any fun r => !r.held) = false := hdec
  simpa using List.any_eq_false.mp hany r hr

section Granted

variable {l : Link} (hl : s.link d = withRead l c i) (hc : s.ctx i = some c) (hst : c.state = .adopting)
  (hidle : l.state = .idle) (hfree : ∀ r ∈ l.requests, i ∉ r.holders) (hheld : ∀ r ∈ l.requests, r.held = true)
include hl hc hst hidle hfree hheld

/-- R166, R167: the posted READ is the one request that the decision grants. -/
theorem decision_read : s.decision d ((ranked (s.link d).requests).map Request.key) = s.grantSingle d i readStep := by
  have hreqs : (s.link d).requests = l.requests ++ [readRequest c i] := by rw [hl]; rfl
  have hmem : readRequest c i ∈ (s.link d).requests := by simp [hreqs]
  have hcase (q : Request) (hq : q ∈ (s.link d).requests) : q = readRequest c i ∨ q ∈ l.requests := by
    rw [hreqs] at hq
    rcases List.mem_append.mp hq with h | h
    · exact Or.inr h
    · exact Or.inl (List.mem_singleton.mp h)
  have hby : (s.link d).requestBy (.single i) = some (readRequest c i) :=
    Link.requestBy_eq_some hmem rfl fun q hq => (hcase q hq).imp_right (hfree q)
  have hreach : s.reach d (readRequest c i) = s.grantSingle d i readStep := by
    simp [reach, readRequest, Request.held, reachSingle, hc, hst, ReqKind.fits]
    rfl
  refine decision_grants (by rw [hl]; exact hidle) hreach ?_ hby _ (fun k hk => ?_) ?_
  · rw [link_grantSingle hc rfl kind_readStep, if_pos rfl]
    nofun
  · obtain ⟨r, hr, rfl⟩ := List.mem_map.mp hk
    cases hf : (s.link d).requestBy r.key with
    | none =>
      have := List.find?_eq_none.mp hf r (mem_ranked.mp hr)
      simp at this
    | some q => exact ⟨q, rfl, (hcase q (List.mem_of_find?_eq_some hf)).imp_right (hheld q)⟩
  · exact List.mem_map.mpr ⟨_, mem_ranked.mpr hmem, rfl⟩

/-- R165, R167: the arbiters send the READ and have nothing more to decide. -/
theorem arbitrate_read (hrun : s.part = .run) (hwaits : s.arbiterWaits = false)
    (hother : ∀ e, e ≠ d → s.decisionDue e = false) : s.arbitrate = s.grantSingle d i readStep := by
  have hlink := link_grantSingle (d := d) hc (step := readStep) rfl kind_readStep
  have hbusy : ((s.grantSingle d i readStep).link d).state ≠ .idle := by
    rw [hlink, if_pos rfl]
    nofun
  have hdue : s.decisionDue d = true := by
    unfold decisionDue
    rw [hl, show (withRead l c i).state = .idle from hidle]
    simp [withRead, readRequest, Request.held]
  refine arbitrate_of_one_due hrun hwaits hother ?_ fun e => ?_
  · rw [decisions, if_pos hdue, decision_read hl hc hst hidle hfree hheld]
    exact decisions_of_not_due (decisionDue_of_not_idle hbusy) 65
  · by_cases he : d = e
    · exact he ▸ decisionDue_of_not_idle hbusy
    · rw [decisionDue_of_link ((hlink e).trans (if_neg he))]
      exact hother e (Ne.symm he)

end Granted

/-- R167: the link on which the READ was sent. -/
theorem link_granted_read {l : Link} (hl : s.link d = withRead l c i) (hc : s.ctx i = some c)
    (hfree : ∀ r ∈ l.requests, i ∉ r.holders) : (s.grantSingle d i readStep).link d = commandSent l
    (LinkCommand.mk .read c.side [CommandEntry.mk (some i) c.channel 0 0 .read none 0]) := by
  have hrequests : (withRead l c i).requests.filter (fun r => r.key != .single i) = l.requests := by
    have hself : [readRequest c i].filter (fun r => r.key != .single i) = [] := by simp [readRequest, Request.key]
    unfold withRead
    rw [List.filter_append, filter_eq_of_no_holder hfree, hself, List.append_nil]
  rw [link_grantSingle hc rfl kind_readStep, if_pos rfl, hl, hrequests]
  rfl

end State

open State

theorem adoptedForm_of_fresh {c : Context} (hf : c.Fresh) (hs : c.state = .adopting) (ha : c.atten = .unknown)
    (hk : c.keyer = none) (hh : c.answerHold = if c.role = .answer then some .released else none) :
    adoptedForm { c.opened with partner := c.partner } = c := by
  unfold Context.Fresh at hf
  cases c
  simp only [Context.mk.injEq] at hf hs ha hk hh
  simp_all [Context.opened, adoptedForm]
  rfl

/-- R21: what ADOPT writes. -/
theorem adoptRecord_of_free {p : List Byte} {s : State} {i : Slot} {c : Context}
    (hslot : (OpenFields.ofPayload p).slot = i.val) (hidle : s.ctx i = none)
    (hclaim : s.claimRecord (OpenFields.ofPayload p) = .ok { c.opened with partner := c.partner })
    (hform : adoptedForm { c.opened with partner := c.partner } = c) :
    adoptRecord p s = .ok ([], ((s.place i c).postRead i).arbitrate) := by
  have hopen := openSlot_of_idle hslot hidle
  have hplace : ((s.bindPartner i c.partner).putRecord i
      (some (adoptedForm { c.opened with partner := c.partner }))) = s.place i c := by rw [hform]; rfl
  unfold adoptRecord
  simp only [hopen, discardRecord_of_idle hidle, hclaim]
  exact congrArg (fun v : State => Except.ok ([], (v.postRead i).arbitrate)) hplace

end Sys2Proof.Machine
end

section
/-! SUPPORT. ADOPT on an IDLE slot (R21). -/

namespace Sys2Proof.Machine

namespace State

variable {s t : State} {i : Slot} {c : Context}

/-- R7: a record with clear flags and no request, on a link that is not FAULTED. -/
theorem synced_eq_self {x : Context} {l : Link} (hflags : x.flags = CondFlags.clear) (hnone : l.requestOf i = none)
    (hst : l.state ≠ .faulted) : x.synced l i = x := by
  have hfault : (l.state == .faulted) = false := beq_false_of_ne hst
  cases x
  dsimp only at hflags
  subst hflags
  simp [Context.synced, hnone, hfault, CondFlags.clear]

/-- What the decision after a posted READ leaves but for the record and its link. -/
structure ReadDecided (s t : State) (i : Slot) (c : Context) : Prop where
  budgets : t.budgets = s.budgets
  keyers : t.keyers = s.keyers
  others : ∀ j, j ≠ i → t.ctx j = s.ctx j
  links : ∀ d, d ≠ c.link → t.link d = s.link d
  idle : (s.link c.link).state = .idle →
    t.ctx i = some { c with step := some readStep } ∧
      t.link c.link = commandSent (s.link c.link)
        (LinkCommand.mk .read c.side [CommandEntry.mk (some i) c.channel 0 0 .read none 0])
  waiting : (s.link c.link).state ≠ .idle →
    t.ctx i = some { c with flags :=
      { c.flags with linkHold := decide ((s.link c.link).state = .faulted) } } ∧
      t.link c.link = withRead (s.link c.link) c i

section

variable (hc : s.ctx i = some c) (hfree : ∀ r ∈ (s.link c.link).requests, i ∉ r.holders)
  (hdec : s.Decided) (hst : c.state = .adopting) (hflags : c.flags = CondFlags.clear) (hstep : c.step = none)
include hc hfree hdec hst hflags hstep

omit hst in
/-- On a link that is not IDLE the READ stands on the list. -/
theorem readDecided_of_waiting (hlink : (s.link c.link).state ≠ .idle) :
    s.ReadDecided (s.postRead i).arbitrate i c := by
  have hcalm := calm_postRead s i
  rw [arbitrate_of_not_due _ (decided_postRead hc hfree hdec hlink)]
  refine ⟨hcalm.budgets, hcalm.keyers, fun j hj => ctx_postRead_of_ne hc hfree hj,
    fun d hd => (link_postRead hc hfree d).trans (if_neg (Ne.symm hd)), fun h => absurd h hlink, fun _ => ⟨?_, ?_⟩⟩
  · rw [ctx_postRead_self hc hfree, synced_withRead hflags hstep hfree]
  · rw [link_postRead hc hfree, if_pos rfl]

/-- On an IDLE link the READ is granted at once. -/
theorem readDecided_of_idle (hrun : s.part = .run) (hwaits : s.arbiterWaits = false)
    (hlink : (s.link c.link).state = .idle) : s.ReadDecided (s.postRead i).arbitrate i c := by
  have hcalm := calm_postRead s i
  have hv : (s.postRead i).ctx i = some c := by
    have hclear : ({ c with flags := { c.flags with linkHold := decide ((s.link c.link).state = .faulted) } } :
        Context) = c := by
      rw [hlink, hflags, show ({ CondFlags.clear with linkHold := decide (LinkState.idle = .faulted) } : CondFlags) =
        CondFlags.clear from rfl, ← hflags]
    rw [ctx_postRead_self hc hfree, synced_withRead hflags hstep hfree, hclear]
  have hvlink : (s.postRead i).link c.link = withRead (s.link c.link) c i :=
    (link_postRead hc hfree _).trans (if_pos rfl)
  have hheld : ∀ r ∈ (s.link c.link).requests, r.held = true := fun r hr => held_of_decided (hdec c.link) hlink hr
  have hother (e : Degree) (he : e ≠ c.link) : (s.postRead i).decisionDue e = false := by
    rw [decisionDue_of_link ((link_postRead hc hfree e).trans (if_neg (Ne.symm he)))]
    exact hdec e
  have hgrant := arbitrate_read hvlink hv hst hlink hfree hheld
    ((part_of_still hcalm.still).trans hrun) ((congrArg Still.arbiterWaits hcalm.still).trans hwaits) hother
  have hsent := link_granted_read hvlink hv hfree
  obtain ⟨hothers, hkeyers⟩ := others_grantSingle (d := c.link) hv (step := readStep) rfl kind_readStep
  rw [hgrant]
  refine ⟨?_, hkeyers.trans hcalm.keyers, fun j hj => (hothers j hj).trans (ctx_postRead_of_ne hc hfree hj),
    fun d hd => ?_, fun _ => ⟨?_, hsent⟩, fun h => absurd hlink h⟩
  · exact (grantSingle_spec hv (step := readStep) rfl kind_readStep).1.trans hcalm.budgets
  · rw [link_grantSingle hv rfl kind_readStep, if_neg (Ne.symm hd), link_postRead hc hfree, if_neg (Ne.symm hd)]
  · rw [ctx_grantSingle_self hv rfl kind_readStep, hsent]
    exact congrArg some (synced_eq_self (x := { c with step := some readStep }) hflags
      (requestOf_eq_none hfree) nofun)

end

end State

open State

/-- Settles O19: the record is placed, its READ is posted, and its link decides. -/
theorem adoptPostsItsRead : Obligations.AdoptPostsItsRead := by
  intro p s i c hrun hwaits hdec hlen hslot hidle hfree hdesc hv hport htone hfresh hst hatten hkeyer hhold
  have hidle' : s.taken.ctx i = none := hidle
  have hclaim := claimRecord_of_free hdesc hv hport htone
  have hbody := adoptRecord_of_free (s := s.taken) hslot hidle' hclaim
    (adoptedForm_of_fresh hfresh hst hatten hkeyer hhold)
  have hnr : s.taken.part ≠ .restarting := by
    show s.part ≠ _
    rw [hrun]
    nofun
  obtain ⟨hchange, -⟩ := events_place (s := s.taken) (c := c) hnr hidle' hv.names_none
  have hplace := writes_place s.taken i c
  have hself := ctx_place_self s.taken i c
  have hothers (j : Slot) (hj : j ≠ i) : (s.taken.place i c).ctx j = (s.ctx j).map fun x => x.boundTo j c.partner i :=
    (ctx_place s.taken i j c).trans (if_neg (Ne.symm hj))
  have hkeyers := keyers_place s.taken i c
  obtain ⟨u, hu⟩ : ∃ u, u = s.taken.place i c := ⟨_, rfl⟩
  rw [← hu] at hbody hplace hself hothers hkeyers hchange
  have hlink (d : Degree) : u.link d = s.link d := link_of_links (s := s.taken) hplace.links d
  have hflags : c.flags = CondFlags.clear := by
    unfold Context.Fresh at hfresh
    rw [hfresh]
  have hstep : c.step = none := by
    unfold Context.Fresh at hfresh
    rw [hfresh]
  have hufree : ∀ r ∈ (u.link c.link).requests, i ∉ r.holders := by
    rw [hlink]
    exact hfree
  have hudec : u.Decided := decided_of_link (s := s) hlink hdec
  have hd : u.ReadDecided (u.postRead i).arbitrate i c := by
    by_cases hst' : (u.link c.link).state = .idle
    · exact readDecided_of_idle hself hufree hudec hst hflags hstep ((part_of_still hplace.still).trans hrun)
        ((congrArg Still.arbiterWaits hplace.still).trans hwaits) hst'
    · exact readDecided_of_waiting hself hufree hudec hflags hstep hst'
  have hmoves := (calm_postRead u i).decides.trans (decides_arbitrate (u.postRead i))
  obtain ⟨w, hw⟩ : ∃ w, w = (u.postRead i).arbitrate := ⟨_, rfl⟩
  rw [← hw] at hbody hd hmoves
  have hstill : w.still = s.taken.still := hmoves.still.trans hplace.still
  have hmark (j : Slot) (h : u.events.change[j] = true) : w.events.change[j] = true :=
    (hmoves.marks (by rw [part_of_still hplace.still]; exact hnr) j).1 h
  have heq : w = { s.taken with contexts := w.contexts, links := w.links, events := w.events } := by
    have h := eq_of_still hstill
    rw [hd.keyers.trans hkeyers, hd.budgets.trans hplace.budgets] at h
    exact h
  have hidleCase := hd.idle
  have hwaitCase := hd.waiting
  rw [hlink] at hidleCase hwaitCase
  rw [exec_adopt]
  refine ⟨_, congrArg Host.Outcome.next (answer_of_body_ok (running_refusal_of_run hrun) hlen hbody),
    congrArg (State.accepted · []) heq, fun j hj => (hd.others j hj).trans (hothers j hj),
    fun d he => (hd.links d he).trans (hlink d), hmark i ?_, fun q hq => hmark q ?_,
    (degreeEvents_of_still hstill :), (linkEvents_of_still hstill :), fun h => ?_, hwaitCase⟩
  · rw [hchange]
    simp
  · rw [hchange, hq]
    simp
  · obtain ⟨h1, h2⟩ := hidleCase h
    refine ⟨h1, h2.trans ?_⟩
    show _ = { s.link c.link with
      state := .busy, number := (s.link c.link).number + 1#8, timer := some 0
      accepted := false, retry := false, lastFrame := (w.link c.link).lastFrame
      sendings := (s.link c.link).sendings + 1
      command := some (LinkCommand.mk .read c.side
        [CommandEntry.mk (some i) c.channel 0 0 .read none 0]) }
    rw [h2]
    rfl

end Sys2Proof.Machine
end

section
/-! SUPPORT. What reactions and decisions leave of the other records (R170 to R172): one that waits for a reply
goes on waiting, and one that has ended changes its holds alone. -/

namespace Sys2Proof.Machine

/-- A record with a step in flight keeps one, outside ARMED; one in ENDED changes calmly. -/
structure Context.Bears (c d : Context) : Prop where
  waits : c.step.isSome = true → c.state ≠ .armed → d.step.isSome = true ∧ d.state ≠ .armed
  ended : c.state = .ended → c.Calmly d

theorem Context.Bears.refl (c : Context) : c.Bears c := ⟨fun h1 h2 => ⟨h1, h2⟩, fun _ => Calmly.refl c⟩

theorem Context.Bears.trans (a b c : Context) (h1 : a.Bears b) (h2 : b.Bears c) : a.Bears c where
  waits hs ha :=
    have ⟨hs', ha'⟩ := h1.waits hs ha
    h2.waits hs' ha'
  ended he :=
    have hc := h1.ended he
    Calmly.trans _ _ _ hc (h2.ended (by rw [hc]; exact he))

theorem Context.Bears.of_armed {c d : Context} (h : c.state = .armed) : c.Bears d :=
  ⟨fun _ ha => absurd h ha, fun he => by rw [h] at he; cases he⟩

theorem Context.Calmly.bears {c d : Context} (h : c.Calmly d) : c.Bears d :=
  ⟨fun h1 h2 => by rw [h]; exact ⟨h1, h2⟩, fun _ => h⟩

/-- A live record that is left outside ARMED with a step, if it had one. -/
theorem Context.Bears.of_live {c d : Context} (hc : c.state ≠ .ended) (hd : d.state ≠ .armed)
    (h : c.step.isSome = true → d.step.isSome = true) : c.Bears d :=
  ⟨fun hs _ => ⟨h hs, hd⟩, fun he => absurd he hc⟩

namespace State

variable {s t u : State} {i : Slot}

/-- Every record bears on. -/
def Bears (s t : State) : Prop := ∀ j, sameSlot Context.Bears (s.ctx j) (t.ctx j)

/-- Every record but one bears on. -/
def BearsOff (i : Slot) (s t : State) : Prop := ∀ j, j ≠ i → sameSlot Context.Bears (s.ctx j) (t.ctx j)

theorem Bears.refl (s : State) : s.Bears s := fun _ => sameSlot_refl Context.Bears.refl _

theorem Bears.trans (h1 : s.Bears t) (h2 : t.Bears u) : s.Bears u :=
  fun j => sameSlot_trans Context.Bears.trans (h1 j) (h2 j)

theorem Bears.off (h : s.Bears t) (i : Slot) : BearsOff i s t := fun j _ => h j

theorem BearsOff.trans (h1 : BearsOff i s t) (h2 : BearsOff i t u) : BearsOff i s u :=
  fun j hj => sameSlot_trans Context.Bears.trans (h1 j hj) (h2 j hj)

theorem Bears.foldl {α : Type} {f : State → α → State} (h : ∀ s a, Bears s (f s a)) (l : List α) (s : State) :
    Bears s (l.foldl f s) := by
  induction l generalizing s with
  | nil => exact .refl s
  | cons a l ih => exact (h s a).trans (ih _)

theorem Calm.bears (h : s.Calm t) : s.Bears t := fun j => sameSlot_imp (fun _ _ => Context.Calmly.bears) (h.records j)

theorem CalmOff.bears (h : CalmOff i s t) : BearsOff i s t :=
  fun j hj => sameSlot_imp (fun _ _ => Context.Calmly.bears) (h j hj)

theorem bears_of_eq (h : ∀ j, t.ctx j = s.ctx j) : s.Bears t := fun j => by
  rw [h j]
  exact sameSlot_refl Context.Bears.refl _

/-- A change that is calm off one record, and that the record bears. -/
theorem CalmOff.bears_of_self (h : CalmOff i s t) (hi : sameSlot Context.Bears (s.ctx i) (t.ctx i)) : s.Bears t :=
  fun j => by
  by_cases hj : j = i
  · exact hj ▸ hi
  · exact h.bears j hj

/-! ## Reactions -/

theorem bears_modCtx (s : State) (i : Slot) {f : Context → Context}
    (h : ∀ c, s.ctx i = some c → c.Bears (f c)) : s.Bears (s.modCtx i f) := by
  refine (calmOff_modCtx s i f).bears_of_self ?_
  cases hc : s.ctx i with
  | none =>
    rw [modCtx_of_none hc, hc]
    trivial
  | some c =>
    rw [ctx_modCtx_self s hc]
    exact h c hc

/-- ENDED leads to no state, so what enters one is live. -/
theorem bears_changeState (s : State) (i : Slot) (st : CtxState) (f : Context → Context) (hst : st ≠ .armed)
    (hf : ∀ c : Context, (f (c.enter st)).step = c.step ∧ (f (c.enter st)).state = st) :
    s.Bears (s.changeState i st f) := by
  refine (calmOff_changeState s i st f).bears_of_self ?_
  cases hc : s.ctx i with
  | none =>
    have h : s.changeState i st f = s := by simp only [changeState, hc]
    rw [h, hc]
    trivial
  | some c =>
    by_cases hl : c.state.leadsTo st = true
    · obtain ⟨d, hd, hcd⟩ := changeState_self s hc hl f
      obtain ⟨hstep, hstate⟩ := hf c
      have hdstate : d.state = st := by rw [hcd]; exact hstate
      have hdstep : d.step = c.step := by rw [hcd]; exact hstep
      rw [hd]
      exact Context.Bears.of_live (not_ended_of_leadsTo hl) (by rwa [hdstate]) fun h => by rwa [hdstep]
    · have h : s.changeState i st f = s := by simp only [changeState, hc, if_neg hl]
      rw [h, hc]
      exact Context.Bears.refl c

theorem bears_lingerKeyer (s : State) (i : Slot) : s.Bears (s.lingerKeyer i) :=
  bears_of_eq fun j => ctx_lingerKeyer s i j

theorem bears_commission (s : State) (i : Slot) : s.Bears (s.commission i) :=
  (bears_changeState s i .commissioned id nofun fun _ => ⟨rfl, rfl⟩).trans (bears_lingerKeyer _ i)

theorem bears_release (h : ∀ c, s.ctx i = some c → c.state = .armed) : s.Bears (s.release i) := by
  have h1 := bears_modCtx s i (f := fun c => { c with answerHold := some .released })
    fun c hc => Context.Bears.of_armed (h c hc)
  exact (h1.trans (bears_of_eq fun j => ctx_startKeyer _ i j)).trans (calm_markChange _ i).bears

theorem armed_of_ctx {p : Slot} {x : Context} (hx : s.ctx p = some x) (ha : x.state = .armed) :
    ∀ c, s.ctx p = some c → c.state = .armed := fun c hc => by
  rw [hx] at hc
  cases hc
  exact ha

theorem bears_partnerOfSettledTail (s : State) (p : Slot) : s.Bears (s.partnerOfSettledTail p) := by
  unfold partnerOfSettledTail
  split
  · exact .refl s
  · rename_i x hx
    split
    · split
      · rename_i h
        exact bears_release (armed_of_ctx hx h.1)
      · exact .refl s
    · split
      · exact bears_commission s p
      · exact .refl s
    · exact .refl s
    · exact .refl s

theorem bears_partnerOfCommissionedTail (s : State) (p : Slot) : s.Bears (s.partnerOfCommissionedTail p) := by
  unfold partnerOfCommissionedTail
  split
  · exact .refl s
  · rename_i x hx
    split
    · split
      · rename_i h
        exact bears_release (armed_of_ctx hx h.1)
      · split
        · exact bears_commission s p
        · exact .refl s
    · split
      · exact bears_commission s p
      · exact .refl s
    · exact .refl s
    · exact .refl s

theorem bears_afterSettled (s : State) (i : Slot) : s.Bears (s.afterSettled i) := by
  unfold afterSettled
  split
  · exact .refl s
  · split
    · split
      · exact .refl s
      · exact bears_partnerOfSettledTail s _
    · split
      · exact bears_commission s i
      · exact .refl s
    · split
      · exact bears_commission s i
      · exact .refl s
    · exact .refl s

theorem bears_settle (s : State) (i : Slot) (limit : Option Limit) : s.Bears (s.settle i limit) :=
  (bears_changeState s i .settled (fun c => { c with flags := c.flags.atLimit limit }) nofun
    fun _ => ⟨rfl, rfl⟩).trans (bears_afterSettled _ i)

theorem bears_withdraw (s : State) (i : Slot) (cause : Ending) : s.Bears (s.withdraw i cause) :=
  (bears_changeState s i .withdrawing (fun c => { c with cause := some cause }) nofun
    fun _ => ⟨rfl, rfl⟩).trans (calm_postWithdrawal _ i).bears

theorem calmOff_releaseKeyer (s : State) (i : Slot) : CalmOff i s (s.releaseKeyer i) := by
  unfold releaseKeyer
  split
  · exact .refl i s
  · split
    · exact .refl i s
    · rename_i k _
      exact calmOff_modCtx (s.setKeyer k Keyer.free) i _

theorem calmOff_endContext (s : State) (i : Slot) (outcome : Ending) : CalmOff i s (s.endContext i outcome) :=
  (calmOff_releaseKeyer s i).trans (calmOff_changeState _ i _ _)

/-- R91: a partner that is ended was in ARMED. -/
theorem bears_endContext_of_armed (h : ∀ c, s.ctx i = some c → c.state = .armed) (outcome : Ending) :
    s.Bears (s.endContext i outcome) := by
  refine (calmOff_endContext s i outcome).bears_of_self ?_
  have hshape := (reacts_endContext s i outcome).records i
  cases hc : s.ctx i with
  | none =>
    rw [hc] at hshape
    cases ht : (s.endContext i outcome).ctx i with
    | none => trivial
    | some d =>
      rw [ht] at hshape
      exact hshape.elim
  | some c =>
    rw [hc] at hshape
    cases ht : (s.endContext i outcome).ctx i with
    | none =>
      rw [ht] at hshape
      exact hshape.elim
    | some d => exact Context.Bears.of_armed (h c hc)

theorem bears_partnerEnded (s : State) (p : Slot) : s.Bears (s.partnerEnded p) := by
  unfold partnerEnded
  split
  · exact .refl s
  · rename_i x hx
    split
    · split
      · rename_i ha
        exact bears_endContext_of_armed (armed_of_ctx hx ha) _
      · exact bears_withdraw s p _
      · exact bears_withdraw s p _
      · exact bears_withdraw s p _
      · exact bears_withdraw s p _
      all_goals exact .refl s
    · exact .refl s

/-! ## Decisions -/

theorem bears_send (s : State) (d : Degree) (cmd : LinkCommand) : s.Bears (s.send d cmd) := bears_of_eq fun _ => rfl

/-- A record that takes a step in flight in a live state outside ARMED or from ARMED. -/
theorem bears_writeStep (s : State) (i : Slot) {f : Context → Context}
    (hf : ∀ c, (f c).state = c.state ∧ (f c).step.isSome = true)
    (h : ∀ c, s.ctx i = some c → c.state ≠ .ended) : s.Bears (s.modCtx i f) := by
  refine bears_modCtx s i fun c hc => ?_
  obtain ⟨hstate, hstep⟩ := hf c
  by_cases ha : c.state = .armed
  · exact .of_armed ha
  · exact .of_live (h c hc) (hstate ▸ ha) fun _ => hstep

theorem bears_grantSingle (s : State) (d : Degree) (i : Slot) (step : StepInFlight)
    (h : ∀ c, s.ctx i = some c → c.state ≠ .ended) : s.Bears (s.grantSingle d i step) := by
  unfold grantSingle
  split
  · exact .refl s
  · rename_i c _
    have h1 : s.Bears ((s.takeRequest d (.single i)).reserve d step.charge) := bears_of_eq fun _ => rfl
    have h2 := h1.trans (bears_writeStep ((s.takeRequest d (.single i)).reserve d step.charge) i
      (f := fun c => { c with step := some step }) (fun _ => ⟨rfl, rfl⟩) h)
    have h3 := h2.trans (bears_send _ d
      { kind := step.kind.command, side := c.side, entries := [.carrying i c step] })
    have h4 := h3.trans (calm_syncHolds _ i).bears
    dsimp only
    split
    · exact h4.trans (bears_changeState _ i .opening id nofun fun _ => ⟨rfl, rfl⟩)
    all_goals exact h4

/-- The records of a group's entries are live. -/
def EntriesLive (entries : List GroupEntry) (s : State) : Prop :=
  ∀ e ∈ entries, ∀ c, s.ctx e.slot = some c → c.state ≠ .ended

theorem bears_writeGroupSteps (f : GroupEntry → Context → Context)
    (hf : ∀ e c, (f e c).state = c.state ∧ (f e c).step.isSome = true) (entries : List GroupEntry) :
    ∀ s : State, EntriesLive entries s → s.Bears (entries.foldl (fun s e => s.modCtx e.slot (f e)) s) := by
  induction entries with
  | nil => exact fun s _ => .refl s
  | cons e l ih =>
    intro s h
    refine (bears_writeStep s e.slot (hf e) (h e List.mem_cons_self)).trans (ih _ fun e' he' c hc => ?_)
    by_cases hs : e'.slot = e.slot
    · rw [hs] at hc
      cases hx : s.ctx e.slot with
      | none =>
        rw [modCtx_of_none hx, hx] at hc
        cases hc
      | some x =>
        rw [ctx_modCtx_self s hx] at hc
        cases hc
        rw [(hf e x).1]
        exact h e List.mem_cons_self x hx
    · rw [ctx_modCtx_of_ne s hs] at hc
      exact h e' (List.mem_cons_of_mem e he') c hc

theorem bears_grantGroup (d : Degree) (g : Nat) {entries : List GroupEntry} (size : Nat) (charged : Bool)
    (h : EntriesLive entries s) : s.Bears (s.grantGroup d g entries size charged) := by
  unfold grantGroup
  have h1 : s.Bears ((s.takeRequest d (.group g)).reserve d
      (if charged then groupCharge entries size else 0)) := bears_of_eq fun _ => rfl
  have h2 := h1.trans (bears_writeGroupSteps
    (fun e c => { c with step := some (groupStep e size charged), groupEntry := false })
    (fun _ _ => ⟨rfl, rfl⟩) entries _ h)
  exact (h2.trans (bears_send _ d _)).trans
    (Bears.foldl (fun s e => (calm_syncHolds s e.slot).bears) entries _)

theorem bears_offerSingle (s : State) (d : Degree) (i : Slot) (c : Context) (kind : StepKind)
    (dir : Option Direction) (size : Nat) (charge : Nat → Nat) (h : ∀ c, s.ctx i = some c → c.state ≠ .ended) :
    s.Bears (s.offerSingle d i c kind dir size charge) := by
  unfold offerSingle
  split
  · split
    · exact bears_grantSingle s d i _ h
    · exact bears_grantSingle s d i _ h
    · exact (calm_holdForBudget s d _ _).bears
  · exact bears_grantSingle s d i _ h

/-- R163: no request stands for a context in ENDED. -/
theorem not_ended_of_fits {kind : ReqKind} {st : CtxState} (h : kind.fits st = true) : st ≠ .ended := by
  rintro rfl
  cases kind <;> cases h

theorem bears_reachSingle (s : State) (d : Degree) (i : Slot) (kind : ReqKind) (charge : Nat) :
    s.Bears (s.reachSingle d i kind charge) := by
  unfold reachSingle
  split
  · exact .refl s
  · rename_i c hc
    split
    · rename_i hfits
      have h : ∀ x, s.ctx i = some x → x.state ≠ .ended := fun x hx => by
        rw [hc] at hx
        cases hx
        exact not_ended_of_fits hfits
      split
      · exact bears_offerSingle s d i _ _ _ _ _ h
      · split
        · exact (calm_removeRequest s i).bears.trans (bears_settle _ i _)
        · exact bears_offerSingle s d i _ _ _ _ _ h
      · exact bears_offerSingle s d i _ _ _ _ _ h
      · exact bears_grantSingle s d i _ h
      · exact bears_grantSingle s d i _ h
    · exact .refl s

/-- R146: the entries that remain are of records in RAMPING. -/
theorem entriesLive_retested (entries : List GroupEntry) (s : State) : EntriesLive (s.retested entries) s := by
  intro e he c hc
  obtain ⟨e0, -, h0⟩ := List.mem_filterMap.mp he
  unfold retest at h0
  split at h0
  · cases h0
  · rename_i x hx
    split at h0
    · rename_i hr
      split at h0
      · cases h0
      · have hslot : e.slot = e0.slot := by
          simp only [Option.bind_some, Sum.getLeft?_inl, Option.some.injEq] at h0
          rw [← h0]
          rfl
        rw [hslot, hx] at hc
        cases hc
        rw [hr]
        nofun
    · cases h0

theorem bears_dropSettled (s : State) (d : Degree) (g : Nat) (entries : List GroupEntry) :
    s.Bears (s.dropSettled d g entries) := by
  unfold dropSettled
  split
  · exact .refl s
  · refine (calm_setGroup s d g _).bears.trans (Bears.foldl (fun t e => ?_) entries _)
    split
    · exact .refl t
    · exact bears_settle t _ _

theorem bears_offerGroup (s : State) (d : Degree) (g : Nat) {kept : List GroupEntry} (h : EntriesLive kept s) :
    s.Bears (s.offerGroup d g kept) := by
  unfold offerGroup
  split
  · exact .refl s
  · split
    · exact bears_grantGroup d g _ _ h
    · exact bears_grantGroup d g _ _ h
    · exact (calm_holdForBudget s d _ _).bears

theorem bears_reach (s : State) (d : Degree) (r : Request) : s.Bears (s.reach d r) := by
  unfold reach
  split
  · exact .refl s
  · split
    · exact (calm_holdForGuard s d _ _).bears
    · split
      · exact bears_reachSingle s d _ _ _
      · exact (bears_dropSettled s d _ _).trans (bears_offerGroup _ d _ (entriesLive_retested _ _))

theorem bears_decision (s : State) (d : Degree) (keys : List ReqKey) : s.Bears (s.decision d keys) := by
  induction keys generalizing s with
  | nil => exact .refl s
  | cons key ks ih =>
    unfold decision
    split
    · split
      · exact (bears_reach s d _).trans (ih _)
      · exact ih s
    all_goals exact .refl s

theorem bears_decisions (s : State) (d : Degree) (n : Nat) : s.Bears (s.decisions d n) := by
  induction n generalizing s with
  | zero => exact .refl s
  | succ n ih =>
    unfold decisions
    split
    · exact (bears_decision s d _).trans (ih _)
    · exact .refl s

theorem bears_arbitrate (s : State) : s.Bears s.arbitrate := by
  unfold arbitrate
  split
  · exact Bears.foldl (fun s d => bears_decisions s d 66) _ s
  · exact .refl s

theorem bears_couple (s : State) (i : Slot) : s.Bears (s.couple i) := by
  unfold couple
  split
  · exact .refl s
  · exact (bears_partnerEnded s _).trans (bears_arbitrate _)

theorem bears_withdrawFully (s : State) (i : Slot) (cause : Ending) : s.Bears (s.withdrawFully i cause) :=
  ((bears_withdraw s i cause).trans (bears_arbitrate _)).trans (bears_couple _ i)

theorem bearsOff_endFully (s : State) (i : Slot) (outcome : Ending) : BearsOff i s (s.endFully i outcome) :=
  ((calmOff_endContext s i outcome).bears.trans ((bears_arbitrate _).off i)).trans ((bears_couple _ i).off i)

end State

end Sys2Proof.Machine
end

section
/-! SUPPORT. A reply served entry by entry (R170 to R172): what one entry leaves of the other records, and what the
entries together leave of each. -/

namespace Sys2Proof.Machine

/-- What a record takes from a reply to others, and from the decisions that follow. -/
def Context.Bystands (c d : Context) : Prop := c.Turns d ∧ c.Bears d

theorem Context.Bystands.refl (c : Context) : c.Bystands c := ⟨.refl c, .refl c⟩

theorem Context.Bystands.trans (a b c : Context) (h1 : a.Bystands b) (h2 : b.Bystands c) : a.Bystands c :=
  ⟨.trans a b c h1.1 h2.1, .trans a b c h1.2 h2.2⟩

theorem Context.Calmly.bystands {c d : Context} (h : c.Calmly d) : c.Bystands d := ⟨h.turns, h.bears⟩

theorem sameSlot_and {R S : Context → Context → Prop} {o p : Option Context} (h1 : sameSlot R o p)
    (h2 : sameSlot S o p) : sameSlot (fun c d => R c d ∧ S c d) o p := by
  cases o <;> cases p
  · trivial
  · exact h1
  · exact h1
  · exact ⟨h1, h2⟩

/-- The record on the other side of a relation. -/
theorem exists_of_sameSlot_some {R : Context → Context → Prop} {c : Context} {o : Option Context}
    (h : sameSlot R (some c) o) : ∃ d, o = some d ∧ R c d := by
  cases o with
  | none => exact h.elim
  | some d => exact ⟨d, rfl, h⟩

namespace State

variable {s t u : State} {i : Slot}

/-- Every record but one stands by. -/
def BystandsOff (i : Slot) (s t : State) : Prop :=
  ∀ j, j ≠ i → sameSlot Context.Bystands (s.ctx j) (t.ctx j)

theorem BystandsOff.trans (h1 : BystandsOff i s t) (h2 : BystandsOff i t u) : BystandsOff i s u :=
  fun j hj => sameSlot_trans Context.Bystands.trans (h1 j hj) (h2 j hj)

theorem BystandsOff.refl (i : Slot) (s : State) : BystandsOff i s s :=
  fun _ _ => sameSlot_refl Context.Bystands.refl _

theorem CalmOff.bystands (h : CalmOff i s t) : BystandsOff i s t :=
  fun j hj => sameSlot_imp (fun _ _ => Context.Calmly.bystands) (h j hj)

theorem BearsOff.bystands (h : BearsOff i s t) (hd : s.Decides t) : BystandsOff i s t :=
  fun j hj => sameSlot_and (hd.records j) (h j hj)

theorem calmOff_syncHolds (s : State) (i : Slot) : CalmOff i s (s.syncHolds i) := calmOff_modCtx s i _

/-! ## What a record does after its own reply -/

theorem bearsOff_commissionWith (s : State) (i : Slot) (f : Context → Context) :
    BearsOff i s (s.commissionWith i f) := by
  unfold commissionWith
  have h1 : BearsOff i s ((s.changeState i .commissioned f).lingerKeyer i) :=
    (calmOff_changeState s i _ f).bears.trans ((bears_lingerKeyer _ i).off i)
  dsimp only
  split
  · exact h1
  · split
    · exact h1.trans ((bears_partnerOfCommissionedTail _ _).off i)
    · exact h1

theorem bears_postingTest (s : State) (i : Slot) (fresh : Bool) : s.Bears (s.postingTest i fresh) := by
  unfold postingTest
  split
  · exact .refl s
  · split
    · split
      · exact bears_settle s i _
      · exact ((calm_postStep s i _ _).trans (calm_evaluateGroupOf _ _)).bears
      · split
        · exact (calm_postStep s i _ _).bears
        · exact (calm_joinGroup s i _ _).bears
    · exact .refl s

theorem calmOff_evaluateReady (s : State) (i : Slot) : CalmOff i s (s.evaluateReady i) := by
  unfold evaluateReady
  split
  · exact .refl i s
  · split
    · exact calmOff_modCtx s i _
    · exact .refl i s

theorem bearsOff_enterRamping (s : State) (i : Slot) (fresh : Bool) : BearsOff i s (s.enterRamping i fresh) :=
  ((calmOff_changeState s i .ramping id).trans (calmOff_evaluateReady _ i)).bears.trans
    ((bears_postingTest _ i fresh).off i)

theorem bearsOff_enterFollowing (s : State) (i : Slot) : BearsOff i s (s.enterFollowing i) := by
  have h1 : BearsOff i s ((s.changeState i .following id).evaluateReady i) :=
    ((calmOff_changeState s i .following id).trans (calmOff_evaluateReady _ i)).bears
  unfold enterFollowing
  dsimp only
  split
  · exact h1
  · split
    · exact h1
    · exact h1.trans (bearsOff_enterRamping _ i false)

theorem bearsOff_doneRead (s : State) (i : Slot) (a : Atten) : BearsOff i s (s.doneRead i a) := by
  unfold doneRead
  split
  · exact (Bears.refl s).off i
  · split
    · split
      · exact bearsOff_commissionWith s i _
      · exact bearsOff_endFully s i _
      · exact bearsOff_endFully s i _
    · exact (Bears.refl s).off i

theorem bearsOff_doneBlock (s : State) (i : Slot) (c : Context) : BearsOff i s (s.doneBlock i c) := by
  unfold doneBlock
  split
  · exact (calmOff_changeState s i _ _).bears
  · exact bearsOff_endFully s i _
  all_goals exact (Bears.refl s).off i

theorem bearsOff_doneStep (s : State) (i : Slot) (c : Context) : BearsOff i s (s.doneStep i c) := by
  unfold doneStep
  split
  · split
    · exact bearsOff_commissionWith s i id
    · split
      · exact bearsOff_enterRamping s i false
      · exact bearsOff_enterFollowing s i
  · split
    · exact bearsOff_commissionWith s i id
    · exact (Bears.refl s).off i
  · split
    · exact bearsOff_commissionWith s i id
    · exact (Bears.refl s).off i
  · exact (calm_postBlock s i).bears.off i
  · exact (calm_postWithdrawal s i).bears.off i
  all_goals exact (Bears.refl s).off i

theorem bears_doneWithdrawStep (s : State) (i : Slot) : s.Bears (s.doneWithdrawStep i) := by
  unfold doneWithdrawStep
  split
  · exact .refl s
  · split
    · exact (calm_postBlock s i).bears
    · exact .refl s

theorem bystandsOff_afterDone (s : State) (i : Slot) (c : Context) (kind : StepKind) (a : Atten) :
    BystandsOff i s (s.afterDone i c kind a) := by
  refine BearsOff.bystands ?_ (decides_afterDone s i c kind a)
  unfold afterDone
  split
  · exact bearsOff_doneRead s i a
  · exact bearsOff_doneBlock s i c
  · exact bearsOff_doneStep s i c
  · exact bearsOff_doneStep s i c
  · exact bearsOff_doneStep s i c
  · exact (bears_doneWithdrawStep s i).off i

theorem bearsOff_refusedWithdrawing (s : State) (i : Slot) (kind : StepKind) :
    BearsOff i s (s.refusedWithdrawing i kind) := by
  unfold refusedWithdrawing
  refine BearsOff.trans ?_ ((calm_postBlock _ i).bears.off i)
  split
  · exact (calmOff_modCtx s i _).bears
  all_goals exact (Bears.refl s).off i

theorem bystandsOff_afterRefuse (s : State) (i : Slot) (c : Context) (kind : StepKind) :
    BystandsOff i s (s.afterRefuse i c kind) := by
  have hself : BearsOff i s s := (Bears.refl s).off i
  have hend (o : Ending) : BearsOff i s (s.endFully i o) := bearsOff_endFully s i o
  have hwithdraw (o : Ending) : BearsOff i s (s.withdrawFully i o) := (bears_withdrawFully s i o).off i
  have hblock (kind : StepKind) : BearsOff i s (s.refusedWithdrawing i kind) := bearsOff_refusedWithdrawing s i kind
  refine BearsOff.bystands ?_ (decides_afterRefuse s i c kind)
  unfold afterRefuse
  repeat' split
  all_goals first
    | with_reducible exact hself
    | with_reducible exact hend _
    | with_reducible exact hwithdraw _
    | with_reducible exact hblock _

/-! ## One entry -/

theorem bystandsOff_doneEntry {e : CommandEntry} (he : e.slot = some i) (read : Atten) (s : State) :
    BystandsOff i s (s.doneEntry e read) := by
  unfold doneEntry
  rw [he]
  dsimp only
  split
  · exact .refl i s
  · split
    · exact ((calmOff_modCtx s i _).trans (calmOff_syncHolds _ i)).bystands.trans
        (bystandsOff_afterDone _ i _ _ _)
    · exact (calmOff_modCtx s i _).bystands

theorem bystandsOff_refuseEntry {e : CommandEntry} (he : e.slot = some i) (reason : Nat) (s : State) :
    BystandsOff i s (s.refuseEntry e reason) := by
  unfold refuseEntry
  rw [he]
  dsimp only
  split
  · exact .refl i s
  · split
    · exact ((calmOff_modCtx s i _).trans (calmOff_syncHolds _ i)).bystands.trans
        (bystandsOff_afterRefuse _ i _ _)
    · exact (calmOff_modCtx s i _).bystands

theorem doneEntry_of_none {e : CommandEntry} (he : e.slot = none) (read : Atten) (s : State) :
    s.doneEntry e read = s := by
  unfold doneEntry
  rw [he]

theorem refuseEntry_of_none {e : CommandEntry} (he : e.slot = none) (reason : Nat) (s : State) :
    s.refuseEntry e reason = s := by
  unfold refuseEntry
  rw [he]

/-- R170: the record of a DONE's entry. -/
theorem doneEntry_waiting {e : CommandEntry} {c : Context} (he : e.slot = some i) (hc : s.ctx i = some c)
    (hstep : c.step.isSome = true) (read : Atten) : ∃ x, (s.doneEntry e read).ctx i = some x ∧
      x.identity = c.identity ∧ x.atten = e.written read ∧ x.doneAt = some s.tae.visits := by
  have hentry : s.doneEntry e read =
      (s.applyDone i (e.written read)).afterDone i c e.kind (e.written read) := by
    simp only [doneEntry, he, hc, if_pos hstep]
  obtain ⟨d, hd, hcd⟩ := (calm_syncHolds (s.modCtx i fun c =>
    { c with atten := e.written read, step := none, freshHeld := false, doneAt := some s.tae.visits }) i).record
    (ctx_modCtx_self s hc _)
  have hrec := (decides_afterDone (s.applyDone i (e.written read)) i c e.kind (e.written read)).records i
  have hd' : (s.applyDone i (e.written read)).ctx i = some d := hd
  rw [hd'] at hrec
  obtain ⟨x, hx, hdx⟩ := exists_of_sameSlot_some hrec
  refine ⟨x, hentry ▸ hx, hdx.identity.trans ?_, hdx.atten.trans ?_, hdx.doneAt.trans ?_⟩
  · rw [hcd]
    rfl
  · rw [hcd]
  · rw [hcd]

/-- R171: the record of a REFUSE's entry. -/
theorem refuseEntry_waiting {e : CommandEntry} {c : Context} (he : e.slot = some i) (hc : s.ctx i = some c)
    (hstep : c.step.isSome = true) (reason : Nat) : ∃ x, (s.refuseEntry e reason).ctx i = some x ∧
      x.identity = c.identity ∧ x.switchReason = some reason ∧
      x.atten = if e.kind = .block then .unknown else c.atten := by
  have hentry : s.refuseEntry e reason = (s.applyRefuse i e.kind reason).afterRefuse i c e.kind := by
    simp only [refuseEntry, he, hc, if_pos hstep]
  have happly : ∃ d, (s.applyRefuse i e.kind reason).ctx i = some d ∧ d.identity = c.identity ∧
      d.switchReason = some reason ∧ d.atten = if e.kind = .block then .unknown else c.atten := by
    obtain ⟨d, hd, hcd⟩ := (calm_syncHolds _ i).record (ctx_modCtx_self s hc fun c =>
      { c with
        switchReason := some reason, step := none
        atten :=
          match e.kind with
          | .block => .unknown
          | .openPort | .step | .groupStep | .withdrawStep | .read => c.atten })
    refine ⟨d, hd, by rw [hcd]; rfl, by rw [hcd], ?_⟩
    rw [hcd]
    dsimp only
    cases e.kind <;> rfl
  obtain ⟨d, hd, hid, hreason, hatten⟩ := happly
  have hrec := (decides_afterRefuse (s.applyRefuse i e.kind reason) i c e.kind).records i
  rw [hd] at hrec
  obtain ⟨x, hx, hdx⟩ := exists_of_sameSlot_some hrec
  exact ⟨x, hentry ▸ hx, hdx.identity.trans hid, hdx.switchReason.trans hreason, hdx.atten.trans hatten⟩

/-- R172: a reply for a record that no longer waits. -/
theorem doneEntry_late {e : CommandEntry} {c : Context} (he : e.slot = some i) (hc : s.ctx i = some c)
    (hstep : c.step = none) (read : Atten) :
    (s.doneEntry e read).ctx i = some { c with flags := { c.flags with lateReply := true } } := by
  have hentry : s.doneEntry e read = s.discardReply i := by
    simp [doneEntry, he, hc, hstep]
  rw [hentry]
  exact ctx_modCtx_self s hc _

/-! ## The entries of a command -/

/-- What serves an entry leaves the records of other slots standing by. -/
def ServesOne (f : State → CommandEntry → State) : Prop :=
  ∀ s e j, e.slot ≠ some j → sameSlot Context.Bystands (s.ctx j) ((f s e).ctx j)

theorem servesOne_doneEntry (read : Atten) : ServesOne fun s e => s.doneEntry e read := fun s e j hj => by
  cases he : e.slot with
  | none =>
    dsimp only
    rw [doneEntry_of_none he]
    exact sameSlot_refl Context.Bystands.refl _
  | some i => exact bystandsOff_doneEntry he read s j fun h => hj (h ▸ he)

theorem servesOne_refuseEntry (reason : Nat) : ServesOne fun s e => s.refuseEntry e reason := fun s e j hj => by
  cases he : e.slot with
  | none =>
    dsimp only
    rw [refuseEntry_of_none he]
    exact sameSlot_refl Context.Bystands.refl _
  | some i => exact bystandsOff_refuseEntry he reason s j fun h => hj (h ▸ he)

variable {f : State → CommandEntry → State}

theorem ServesOne.foldl (hf : ServesOne f) (entries : List CommandEntry) (j : Slot)
    (h : ∀ e ∈ entries, e.slot ≠ some j) (s : State) :
    sameSlot Context.Bystands (s.ctx j) ((entries.foldl f s).ctx j) := by
  induction entries generalizing s with
  | nil => exact sameSlot_refl Context.Bystands.refl _
  | cons e l ih =>
    exact sameSlot_trans Context.Bystands.trans (hf s e j (h e List.mem_cons_self))
      (ih (fun e he => h e (List.mem_cons_of_mem _ he)) _)

/-- The entries on both sides of one that names a slot name others. -/
theorem split_of_nodup {entries : List CommandEntry} (hn : (entries.filterMap (·.slot)).Nodup) {e : CommandEntry}
    (he : e ∈ entries) (hi : e.slot = some i) : ∃ pre post, entries = pre ++ e :: post ∧
      (∀ x ∈ pre, x.slot ≠ some i) ∧ ∀ x ∈ post, x.slot ≠ some i := by
  obtain ⟨pre, post, heq⟩ := List.append_of_mem he
  refine ⟨pre, post, heq, ?_⟩
  rw [heq, List.filterMap_append, List.filterMap_cons, hi, List.nodup_append] at hn
  obtain ⟨-, hpost, hdisj⟩ := hn
  refine ⟨fun x hx hxi => ?_, fun x hx hxi => ?_⟩
  · exact hdisj i (List.mem_filterMap.mpr ⟨x, hx, hxi⟩) i List.mem_cons_self rfl
  · exact (List.nodup_cons.mp hpost).1 (List.mem_filterMap.mpr ⟨x, hx, hxi⟩)

/-- A record named once: it stands by before its entry is served, and after. -/
theorem ServesOne.at_entry (hf : ServesOne f) {entries : List CommandEntry}
    (hn : (entries.filterMap (·.slot)).Nodup) {e : CommandEntry} (he : e ∈ entries) (hi : e.slot = some i)
    (s : State) : ∃ pre : List CommandEntry,
      sameSlot Context.Bystands (s.ctx i) ((pre.foldl f s).ctx i) ∧
      sameSlot Context.Bystands ((f (pre.foldl f s) e).ctx i) ((entries.foldl f s).ctx i) := by
  obtain ⟨pre, post, rfl, hpre, hpost⟩ := split_of_nodup hn he hi
  refine ⟨pre, hf.foldl pre i hpre s, ?_⟩
  rw [List.foldl_append, List.foldl_cons]
  exact hf.foldl post i hpost _

end State

end Sys2Proof.Machine
end

section
/-! SUPPORT. A DONE and a REFUSE that match, in RUN and in RESTARTING (R169 to R172, R178). -/

namespace Sys2Proof.Machine

namespace State

variable {s t u : State} {d : Degree} {i : Slot}

/-! ## The command is complete (R170, R171) -/

theorem quieten_spec (s : State) (d : Degree) : (s.quieten d).still = s.still ∧
    ∀ i, sameSlot Context.Calmly (s.ctx i) ((s.quieten d).ctx i) := by
  have h := calm_syncLink (s.modLink d fun l =>
    { l with state := .idle, command := none, timer := none, accepted := false, retry := false }) d
  exact ⟨h.still, h.records⟩

theorem markLink_still_but_flags (s : State) (d : Degree) (f : LinkFlags → LinkFlags) :
    s.markLink d f = { s with events := (s.markLink d f).events } := by
  unfold markLink
  split <;> rfl

theorem degree_markLink (s : State) (d : Degree) (f : LinkFlags → LinkFlags) :
    (s.markLink d f).events.degree = s.events.degree := by
  unfold markLink
  split <;> rfl

theorem recovered_markLink (hp : s.part ≠ .restarting) (d : Degree) :
    (s.markLink d fun f => { f with recovered := true }).events.link[d].recovered = true := by
  unfold markLink
  rw [if_neg hp]
  simp

theorem apart_markLink (s : State) (d : Degree) (f : LinkFlags → LinkFlags) : s.Apart (s.markLink d f) := by
  have hdeg := degree_markLink s d f
  have heq := markLink_still_but_flags s d f
  generalize s.markLink d f = t at hdeg heq
  refine ⟨by rw [heq], by rw [heq], by rw [heq], by rw [heq], by rw [heq], by rw [heq], by rw [heq], fun e => ?_⟩
  rw [hdeg]
  exact .refl _

theorem watches_markLink (s : State) (d : Degree) (f : LinkFlags → LinkFlags) : Watches s (s.markLink d f) := by
  unfold markLink
  split <;> exact ⟨rfl, rfl⟩

theorem link_markLink (s : State) (d e : Degree) (f : LinkFlags → LinkFlags) :
    (s.markLink d f).link e = s.link e := by
  unfold markLink
  split <;> rfl

/-- The state when the link is without its command, before the decision that follows. -/
def freed (s : State) (d : Degree) : State :=
  if (s.link d).retry then (s.quieten d).markLink d fun f => { f with recovered := true } else s.quieten d

theorem completeCommand_eq (s : State) (d : Degree) : s.completeCommand d = (s.freed d).arbitrate := rfl

theorem apart_freed (s : State) (d : Degree) : s.Apart (s.freed d) := by
  have h := apart_of_still (quieten_spec s d).1
  unfold freed
  split
  · exact h.trans (apart_markLink _ d _)
  · exact h

theorem watches_freed (s : State) (d : Degree) : Watches s (s.freed d) := by
  have h : Watches s (s.quieten d) := ⟨guards_of_still (quieten_spec s d).1, tae_of_still (quieten_spec s d).1⟩
  unfold freed
  split
  · exact h.trans (watches_markLink _ d _)
  · exact h

theorem link_freed (s : State) (d e : Degree) : (s.freed d).link e =
    if d = e then (s.link d).dropped else s.link e := by
  unfold freed
  split
  · rw [link_markLink]
    exact link_quieten s d e
  · exact link_quieten s d e

theorem calm_records_freed (s : State) (d : Degree) (i : Slot) :
    sameSlot Context.Calmly (s.ctx i) ((s.freed d).ctx i) := by
  unfold freed
  split
  · rw [ctx_markLink]
    exact (quieten_spec s d).2 i
  · exact (quieten_spec s d).2 i

/-- What the end of a command leaves (R170, R171). -/
structure Completed (s t : State) (d : Degree) : Prop where
  apart : s.Apart t
  watches : Watches s t
  records : ∀ i, sameSlot Context.Bystands (s.ctx i) (t.ctx i)
  link : Link.Sends { (s.link d).dropped with requests := [] } (t.wire d)
  links : ∀ e, e ≠ d → Link.Sends (s.wire e) (t.wire e)
  recovered : (s.link d).retry = true → t.events.link[d].recovered = true

theorem completed_completeCommand (hp : s.part ≠ .restarting) (d : Degree) :
    s.Completed (s.completeCommand d) d := by
  have hapart := apart_freed s d
  have hwatches := watches_freed s d
  have hlink := link_freed s d
  have hrecords := calm_records_freed s d
  have hrecovered : (s.link d).retry = true → (s.freed d).events.link[d].recovered = true := fun h => by
    unfold freed
    rw [if_pos h]
    refine recovered_markLink ?_ d
    rw [part_of_still (quieten_spec s d).1]
    exact hp
  rw [completeCommand_eq]
  generalize s.freed d = w at *
  have hdec := decides_arbitrate w
  have hstill := hdec.still
  refine ⟨hapart.trans (apart_of_still hstill),
    hwatches.trans ⟨guards_of_still hstill, tae_of_still hstill⟩, fun i => ?_, ?_, fun e he => ?_, fun h => ?_⟩
  · exact sameSlot_trans Context.Bystands.trans (sameSlot_imp (fun _ _ => Context.Calmly.bystands) (hrecords i))
      (sameSlot_and (hdec.records i) (bears_arbitrate w i))
  · have hw : w.wire d = { (s.link d).dropped with requests := [] } := by rw [wire, hlink, if_pos rfl]
    exact hw ▸ hdec.wire d
  · have hw : w.wire e = s.wire e := by rw [wire, hlink, if_neg (Ne.symm he)]; rfl
    exact hw ▸ hdec.wire e
  · rw [linkEvents_of_still hstill]
    exact hrecovered h

/-! ## The scanner and the monitor after a DONE (R55, R152) -/

/-- The state in which the command of a DONE is completed. -/
def expecting (s : State) (d : Degree) (change : Int) (taps : List Tap) : State :=
  { s with
    guards := s.guards.set d { s.guard d with expected := clampExpected ((s.guard d).expected + change) }
    tae := { s.tae with queue := taps.foldl (fun q v => enqueueTap v q) s.tae.queue } }

theorem foldl_enqueue (taps : List Tap) (s : State) : taps.foldl (fun s v => s.enqueue v) s =
    { s with tae := { s.tae with queue := taps.foldl (fun q v => enqueueTap v q) s.tae.queue } } := by
  induction taps generalizing s with
  | nil => rfl
  | cons v l ih =>
    rw [List.foldl_cons, ih]
    rfl

/-- The entries of a DONE served, before the command is completed. -/
def served (s : State) (entries : List CommandEntry) (read : Atten) : State :=
  entries.foldl (fun s e => s.doneEntry e read) s

theorem doneInRun_eq (s : State) (d : Degree) (entries : List CommandEntry) (read : Atten) :
    s.doneInRun d entries read =
      ((s.served entries read).expecting d (entries.map s.entryChange).sum
        (s.measureTaps entries)).completeCommand d :=
  congrArg (State.completeCommand d) (foldl_enqueue _ _)

theorem moves_served (s : State) (entries : List CommandEntry) (read : Atten) : s.Moves (s.served entries read) :=
  Moves.foldl (fun s e => moves_doneEntry s e read) entries s

/-- A link that is not IDLE is not written by what reactions and decisions do. -/
theorem wire_eq_of_sends (h : Link.Sends (s.wire d) (t.wire d)) (hd : (s.link d).state ≠ .idle) :
    t.wire d = s.wire d := h.resolve_right fun k => hd k.1

theorem dropped_of_wire (h : t.wire d = s.wire d) :
    ({ (t.link d).dropped with requests := [] } : Link) = { (s.link d).dropped with requests := [] } :=
  congrArg Link.dropped h

theorem retry_of_wire (h : t.wire d = s.wire d) : (t.link d).retry = (s.link d).retry :=
  (congrArg Link.retry h :)

end State

end Sys2Proof.Machine
end

section
/-! SUPPORT. A DONE that matches (R169, R170, R172, R178). -/

namespace Sys2Proof.Machine

namespace State

variable {s : State} {d : Degree} {i : Slot} {c : Context} {entries : List CommandEntry} {e : CommandEntry}

/-! ## The records of the entries -/

section Served

variable (hn : (entries.filterMap (·.slot)).Nodup) (he : e ∈ entries) (hi : e.slot = some i) (hc : s.ctx i = some c)
include hn he hi hc

/-- R170: a record that waits. -/
theorem served_waiting (hstep : c.step.isSome = true) (ha : c.state ≠ .armed) (read : Atten) :
    ∃ x, (s.served entries read).ctx i = some x ∧ x.identity = c.identity ∧ x.atten = e.written read ∧
      x.doneAt = some s.tae.visits := by
  obtain ⟨pre, hpre, hpost⟩ := (servesOne_doneEntry read).at_entry hn he hi s
  have htae := tae_of_still (moves_served s pre read).still
  rw [hc] at hpre
  obtain ⟨c', hc', hcc'⟩ := exists_of_sameSlot_some hpre
  obtain ⟨x, hx, hid, hatten, hdone⟩ := doneEntry_waiting hi hc' (hcc'.2.waits hstep ha).1 read
  rw [hx] at hpost
  obtain ⟨y, hy, hxy⟩ := exists_of_sameSlot_some hpost
  refine ⟨y, hy, hxy.1.identity.trans (hid.trans hcc'.1.identity), hxy.1.atten.trans hatten,
    hxy.1.doneAt.trans (hdone.trans ?_)⟩
  exact congrArg (fun v : Tae => some v.visits) htae

/-- R172: a record in ENDED. -/
theorem served_late (hstep : c.step = none) (hst : c.state = .ended) (read : Atten) :
    ∃ x, (s.served entries read).ctx i = some x ∧ x.atten = c.atten ∧ x.state = .ended ∧
      x.flags.lateReply = true := by
  obtain ⟨pre, hpre, hpost⟩ := (servesOne_doneEntry read).at_entry hn he hi s
  rw [hc] at hpre
  obtain ⟨c', hc', hcc'⟩ := exists_of_sameSlot_some hpre
  have hcalm := hcc'.2.ended hst
  have hstep' : c'.step = none := by rw [hcalm]; exact hstep
  have hst' : c'.state = .ended := by rw [hcalm]; exact hst
  have hx := doneEntry_late hi hc' hstep' read
  rw [hx] at hpost
  obtain ⟨y, hy, hxy⟩ := exists_of_sameSlot_some hpost
  have hcalm' := hxy.2.ended hst'
  refine ⟨y, hy, hxy.1.atten.trans hcc'.1.atten, ?_, ?_⟩
  · rw [hcalm']
    exact hst'
  · rw [hcalm']

end Served

/-- The records that no entry names. -/
theorem served_off (h : ∀ e ∈ entries, e.slot ≠ some i) (read : Atten) :
    sameSlot Context.Bystands (s.ctx i) ((s.served entries read).ctx i) :=
  (servesOne_doneEntry read).foldl entries i h s

/-! ## The DONE that is taken -/

section Taken

variable {cmd : LinkCommand} (hcmd : (s.link d).command = some cmd)
include hcmd

theorem takeDone_of_none {value : Byte} (h : doneValue cmd.kind value = none) (number : Byte) :
    s.takeDone d number value = s := by
  simp only [takeDone, hcmd, h]

variable {value : Byte} {read : Atten} (h : doneValue cmd.kind value = some read)
include h

theorem takeDone_of_run (hp : s.part = .run) :
    s.takeDone d (s.link d).number value = s.doneInRun d cmd.entries read := by
  have hm := matches_eq_true (s := s) (d := d) (by rw [hcmd]; nofun) rfl
  simp only [takeDone, hcmd, h, if_pos hm, if_pos hp]

theorem takeDone_of_restarting (hp : s.part = .restarting) :
    s.takeDone d (s.link d).number value = s.dropCommand d := by
  have hm := matches_eq_true (s := s) (d := d) (by rw [hcmd]; nofun) rfl
  have hne : s.part ≠ .run := by rw [hp]; nofun
  simp only [takeDone, hcmd, h, if_pos hm, if_neg hne]

end Taken

theorem apart_expecting (s : State) (d : Degree) (change : Int) (taps : List Tap) :
    s.Apart (s.expecting d change taps) :=
  ⟨rfl, rfl, rfl, rfl, rfl, rfl, rfl, fun _ => .refl _⟩

theorem guard_expecting (s : State) (d e : Degree) (change : Int) (taps : List Tap) :
    (s.expecting d change taps).guard e =
      if d = e then { s.guard d with expected := clampExpected ((s.guard d).expected + change) } else s.guard e :=
  guard_setGuard s d e _

/-- R170: what a DONE leaves of the part, through its three stages. -/
structure Done (s t : State) (d : Degree) (cmd : LinkCommand) (read : Atten) : Prop where
  apart : s.Apart t
  tae : t.tae = { s.tae with queue :=
    (s.measureTaps cmd.entries).foldl (fun q v => enqueueTap v q) s.tae.queue }
  guard : ∀ e, t.guard e = if d = e then
    { s.guard d with expected := clampExpected ((s.guard d).expected + (cmd.entries.map s.entryChange).sum) }
    else s.guard e
  records : ∀ i, sameSlot Context.Bystands ((s.served cmd.entries read).ctx i) (t.ctx i)
  link : Link.Sends { (s.link d).dropped with requests := [] } (t.wire d)
  links : ∀ e, e ≠ d → Link.Sends (s.wire e) (t.wire e)
  recovered : (s.link d).retry = true → t.events.link[d].recovered = true

theorem done_doneInRun (hp : s.part = .run) (hst : (s.link d).state ≠ .idle) (cmd : LinkCommand) (read : Atten) :
    s.Done (s.doneInRun d cmd.entries read) d cmd read := by
  have hmoves := moves_served s cmd.entries read
  rw [doneInRun_eq]
  obtain ⟨u, hu⟩ : ∃ u, u = s.served cmd.entries read := ⟨_, rfl⟩
  rw [← hu] at hmoves ⊢
  have hwire := wire_eq_of_sends (hmoves.wire d) hst
  have htae := tae_of_still hmoves.still
  have hguards := guards_of_still hmoves.still
  have hexp := apart_expecting u d (cmd.entries.map s.entryChange).sum (s.measureTaps cmd.entries)
  have hguard (e : Degree) := guard_expecting u d e (cmd.entries.map s.entryChange).sum (s.measureTaps cmd.entries)
  have hpart : (u.expecting d (cmd.entries.map s.entryChange).sum (s.measureTaps cmd.entries)).part ≠
      .restarting := by
    rw [hexp.part, part_of_still hmoves.still, hp]
    nofun
  obtain ⟨hapart, hwatches, hrecords, hlink, hlinks, hrecovered⟩ := completed_completeCommand hpart d
  refine ⟨((apart_of_still hmoves.still).trans hexp).trans hapart, hwatches.2.trans ?_, fun e => ?_, ?_, ?_,
    fun e he => (hmoves.wire e).trans (hlinks e he), fun h => hrecovered ((retry_of_wire hwire).trans h)⟩
  · exact congrArg (fun v : Tae =>
      { v with queue := (s.measureTaps cmd.entries).foldl (fun q v => enqueueTap v q) v.queue }) htae
  · rw [guard_of_guards hwatches.1, hguard, guard_of_guards hguards, guard_of_guards hguards]
  · exact hu ▸ hrecords
  · exact dropped_of_wire hwire ▸ hlink

end State

open State

theorem exec_linkDone (d : Degree) (number value : Byte) (s : State) :
    exec (.linkDone d number value) s = .next (s.takeDone d number value) := rfl

/-- Settles O46: the entries are served one by one, then the command is complete. -/
theorem linkDoneCompletesTheCommand : Obligations.LinkDoneCompletesTheCommand := by
  intro s d value cmd hcmd
  rw [exec_linkDone]
  refine ⟨fun h => by rw [takeDone_of_none hcmd h], fun read h => ⟨fun hp => ?_, fun hp hst hn => ?_⟩⟩
  · rw [takeDone_of_restarting hcmd h hp]
    refine ⟨_, rfl, drops_dropCommand hp hcmd, ?_⟩
    rw [link_dropCommand hcmd, if_pos rfl]
    rfl
  · have hdone := done_doneInRun hp hst cmd read
    have hwaiting {e : CommandEntry} {i : Slot} {c : Context} (he : e ∈ cmd.entries) (hi : e.slot = some i)
        (hc : s.ctx i = some c) := served_waiting (read := read) hn he hi hc
    have hlate {e : CommandEntry} {i : Slot} {c : Context} (he : e ∈ cmd.entries) (hi : e.slot = some i)
        (hc : s.ctx i = some c) := served_late (read := read) hn he hi hc
    rw [takeDone_of_run hcmd h hp]
    generalize s.doneInRun d cmd.entries read = t at hdone
    have hapart := hdone.apart
    refine ⟨t, rfl, hdone.tae, (hdone.guard d).trans (if_pos rfl),
      fun e he => (hdone.guard e).trans (if_neg (Ne.symm he)), hapart.part, hapart.config, hapart.timebase,
      hapart.buffer, hapart.mask, hapart.pending, hdone.link, hdone.links, hdone.recovered,
      fun e he i c hi hc hstep ha => ?_, fun e he i c hi hc hstep hend => ?_, fun i hi => ?_⟩
    · obtain ⟨x, hx, hid, hatten, hat⟩ := hwaiting he hi hc hstep ha
      have hrec := hdone.records i
      rw [hx] at hrec
      obtain ⟨y, hy, hxy⟩ := exists_of_sameSlot_some hrec
      exact ⟨y, hy, hxy.1.identity.trans hid, hxy.1.atten.trans hatten, hxy.1.doneAt.trans hat⟩
    · obtain ⟨x, hx, hatten, hstate, hlateReply⟩ := hlate he hi hc hstep hend
      have hrec := hdone.records i
      rw [hx] at hrec
      obtain ⟨y, hy, hxy⟩ := exists_of_sameSlot_some hrec
      have hcalm := hxy.2.ended hstate
      refine ⟨y, hy, hxy.1.atten.trans hatten, ?_, ?_⟩
      · rw [hcalm]
        exact hstate
      · rw [hcalm]
        exact hlateReply
    · have hall := sameSlot_trans Context.Bystands.trans (served_off hi read) (hdone.records i)
      cases hc : s.ctx i with
      | none =>
        rw [hc] at hall
        cases ht : t.ctx i with
        | none => rfl
        | some x =>
          rw [ht] at hall
          exact hall.elim
      | some c =>
        rw [hc] at hall
        obtain ⟨x, hx, hcx⟩ := exists_of_sameSlot_some hall
        rw [hx]
        exact congrArg some hcx.1.atten.symm

end Sys2Proof.Machine
end

section
/-! SUPPORT. A REFUSE that matches (R169, R171, R178). -/

namespace Sys2Proof.Machine

namespace State

variable {s t : State} {d : Degree} {i : Slot} {c : Context} {entries : List CommandEntry} {e : CommandEntry}

/-- The entries of a REFUSE served, before the last refusal is written. -/
def refusedBy (s : State) (entries : List CommandEntry) (reason : Nat) : State :=
  entries.foldl (fun s e => s.refuseEntry e reason) s

/-- R171: the reason is the link's last refusal. -/
def refusing (s : State) (d : Degree) (reason : Nat) : State :=
  s.modLink d fun l => { l with lastRefusal := some reason }

theorem refuseInRun_eq (s : State) (d : Degree) (entries : List CommandEntry) (reason : Nat) :
    s.refuseInRun d entries reason = ((s.refusedBy entries reason).refusing d reason).completeCommand d := rfl

theorem moves_refusedBy (s : State) (entries : List CommandEntry) (reason : Nat) :
    s.Moves (s.refusedBy entries reason) :=
  Moves.foldl (fun s e => moves_refuseEntry s e reason) entries s

theorem link_refusing (s : State) (d e : Degree) (reason : Nat) : (s.refusing d reason).link e =
    if d = e then { s.link d with lastRefusal := some reason } else s.link e :=
  link_setLink s d e _

/-- R171: a record that waits. -/
theorem refusedBy_waiting (hn : (entries.filterMap (·.slot)).Nodup) (he : e ∈ entries) (hi : e.slot = some i)
    (hc : s.ctx i = some c) (hstep : c.step.isSome = true) (ha : c.state ≠ .armed) (reason : Nat) :
    ∃ x, (s.refusedBy entries reason).ctx i = some x ∧ x.identity = c.identity ∧
      x.switchReason = some reason ∧ x.atten = if e.kind = .block then .unknown else c.atten := by
  obtain ⟨pre, hpre, hpost⟩ := (servesOne_refuseEntry reason).at_entry hn he hi s
  rw [hc] at hpre
  obtain ⟨c', hc', hcc'⟩ := exists_of_sameSlot_some hpre
  obtain ⟨x, hx, hid, hreason, hatten⟩ := refuseEntry_waiting hi hc' (hcc'.2.waits hstep ha).1 reason
  rw [hx] at hpost
  obtain ⟨y, hy, hxy⟩ := exists_of_sameSlot_some hpost
  rw [hcc'.1.atten] at hatten
  exact ⟨y, hy, hxy.1.identity.trans (hid.trans hcc'.1.identity), hxy.1.switchReason.trans hreason,
    hxy.1.atten.trans hatten⟩

section Taken

variable {cmd : LinkCommand} (hcmd : (s.link d).command = some cmd) {reason : Byte} (hr : reason.toNat ≤ 15)
include hcmd hr

theorem takeRefuse_of_run (hp : s.part = .run) :
    s.takeRefuse d (s.link d).number reason = s.refuseInRun d cmd.entries reason.toNat := by
  have hm : ((s.link d).matches (s.link d).number && decide (reason.toNat ≤ 15)) = true := by
    rw [matches_eq_true (s := s) (d := d) (by rw [hcmd]; nofun) rfl, decide_eq_true hr]
    rfl
  simp only [takeRefuse, hcmd, if_pos hm, if_pos hp]

theorem takeRefuse_of_restarting (hp : s.part = .restarting) :
    s.takeRefuse d (s.link d).number reason = (s.refusing d reason.toNat).dropCommand d := by
  have hm : ((s.link d).matches (s.link d).number && decide (reason.toNat ≤ 15)) = true := by
    rw [matches_eq_true (s := s) (d := d) (by rw [hcmd]; nofun) rfl, decide_eq_true hr]
    rfl
  have hne : s.part ≠ .run := by rw [hp]; nofun
  simp only [takeRefuse, hcmd, if_pos hm, if_neg hne]
  rfl

end Taken

/-- R178: a REFUSE in RESTARTING drops the command and leaves its reason. -/
theorem drops_refusing {cmd : LinkCommand} (hp : s.part = .restarting) (hcmd : (s.link d).command = some cmd)
    (reason : Nat) : s.Drops ((s.refusing d reason).dropCommand d) d cmd := by
  have hlink := link_refusing s d
  have hcmd' : ((s.refusing d reason).link d).command = some cmd := by
    rw [hlink, if_pos rfl]
    exact hcmd
  obtain ⟨hstill, hbudgets, hkeyers, hevents, hself, hlinks, hsteps, hrecords⟩ :=
    drops_dropCommand (s := s.refusing d reason) hp hcmd'
  refine ⟨hstill, hbudgets, hkeyers, hevents, hself.trans ?_, fun e he => (hlinks e he).trans ?_, hsteps, hrecords⟩
  · rw [hlink, if_pos rfl]
  · rw [hlink, if_neg (Ne.symm he)]

/-- R171: what a REFUSE leaves of the part, through its three stages. -/
structure Refused (s t : State) (d : Degree) (cmd : LinkCommand) (reason : Nat) : Prop where
  apart : s.Apart t
  watches : Watches s t
  records : ∀ i, sameSlot Context.Bystands ((s.refusedBy cmd.entries reason).ctx i) (t.ctx i)
  link : Link.Sends { (s.link d).dropped with lastRefusal := some reason, requests := [] } (t.wire d)
  links : ∀ e, e ≠ d → Link.Sends (s.wire e) (t.wire e)
  recovered : (s.link d).retry = true → t.events.link[d].recovered = true

theorem refused_refuseInRun (hp : s.part = .run) (hst : (s.link d).state ≠ .idle) (cmd : LinkCommand)
    (reason : Nat) : s.Refused (s.refuseInRun d cmd.entries reason) d cmd reason := by
  have hmoves := moves_refusedBy s cmd.entries reason
  rw [refuseInRun_eq]
  obtain ⟨u, hu⟩ : ∃ u, u = s.refusedBy cmd.entries reason := ⟨_, rfl⟩
  rw [← hu] at hmoves ⊢
  have hwire := wire_eq_of_sends (hmoves.wire d) hst
  have hlinkU := link_refusing u d
  have hpart : (u.refusing d reason).part ≠ .restarting := by
    show u.part ≠ _
    rw [part_of_still hmoves.still, hp]
    nofun
  have hrefusing : Watches u (u.refusing d reason) := ⟨rfl, rfl⟩
  have hrefusingApart : u.Apart (u.refusing d reason) :=
    ⟨rfl, rfl, rfl, rfl, rfl, rfl, rfl, fun _ => .refl _⟩
  obtain ⟨hapart, hwatches, hrecords, hlink, hlinks, hrecovered⟩ := completed_completeCommand hpart d
  have hstart : Watches s u := ⟨guards_of_still hmoves.still, tae_of_still hmoves.still⟩
  refine ⟨((apart_of_still hmoves.still).trans hrefusingApart).trans hapart, (hstart.trans hrefusing).trans hwatches,
    ?_, ?_, fun e he => (hmoves.wire e).trans ?_, fun h => hrecovered ?_⟩
  · exact hu ▸ hrecords
  · rw [hlinkU, if_pos rfl] at hlink
    have hdropped : ({ (u.link d).dropped with lastRefusal := some reason, requests := [] } : Link) =
        { (s.link d).dropped with lastRefusal := some reason, requests := [] } :=
      congrArg (fun l : Link => { l.dropped with lastRefusal := some reason }) hwire
    exact hdropped ▸ hlink
  · have hsame : (u.refusing d reason).wire e = u.wire e := by
      rw [wire, hlinkU, if_neg (Ne.symm he)]
      rfl
    exact hsame ▸ hlinks e he
  · rw [hlinkU, if_pos rfl]
    exact (retry_of_wire hwire).trans h

end State

open State

theorem exec_linkRefuse (d : Degree) (number reason : Byte) (s : State) :
    exec (.linkRefuse d number reason) s = .next (s.takeRefuse d number reason) := rfl

/-- Settles O48: the entries are served one by one, then the command is complete. -/
theorem linkRefuseCompletesTheCommand : Obligations.LinkRefuseCompletesTheCommand := by
  intro s d reason cmd hcmd hr
  rw [exec_linkRefuse]
  refine ⟨fun hp => ?_, fun hp hst hn => ?_⟩
  · rw [takeRefuse_of_restarting hcmd hr hp]
    exact ⟨_, rfl, drops_refusing hp hcmd reason.toNat⟩
  · have hrefused := refused_refuseInRun hp hst cmd reason.toNat
    have hwaiting {e : CommandEntry} {i : Slot} {c : Context} (he : e ∈ cmd.entries) (hi : e.slot = some i)
        (hc : s.ctx i = some c) (hstep : c.step.isSome = true) (ha : c.state ≠ .armed) :=
      refusedBy_waiting hn he hi hc hstep ha reason.toNat
    rw [takeRefuse_of_run hcmd hr hp]
    generalize s.refuseInRun d cmd.entries reason.toNat = t at hrefused
    have hapart := hrefused.apart
    refine ⟨t, rfl, hrefused.watches.2, hrefused.watches.1, hapart.part, hapart.config, hapart.timebase,
      hapart.buffer, hapart.mask, hapart.pending, hrefused.link, hrefused.links, hrefused.recovered,
      fun e he i c hi hc hstep ha => ?_⟩
    obtain ⟨x, hx, hid, hreason, hatten⟩ := hwaiting he hi hc hstep ha
    have hrec := hrefused.records i
    rw [hx] at hrec
    obtain ⟨y, hy, hxy⟩ := exists_of_sameSlot_some hrec
    exact ⟨y, hy, hxy.1.identity.trans hid, hxy.1.switchReason.trans hreason, hxy.1.atten.trans hatten⟩

end Sys2Proof.Machine
end
